-- ==== Sys2Proof/Word.lean ====
section
/-! DEFINITION. The words of the machine: what spec/00_scope.md rules R5 and R6 fix about widths. Every value is
unsigned (R6). -/

namespace Sys2Proof

/-- A V register, DT, ST or a memory byte: `XLEN` = 8 bits (R5). -/
abbrev Byte := BitVec 8

/-- The index register and the `nnn` field: `ILEN` = 12 bits (R5, R71). -/
abbrev Addr := BitVec 12

/-- An instruction word (R70), the pc or a stack slot (`PCLEN` = 16 bits, R5, D3). -/
abbrev Word := BitVec 16

/-- The number of a V register, 0 to 15 (`NREG` = 16, R5, R20): a name, never added to or masked. -/
abbrev Reg := Fin 16

/-- SP and the number of a stack slot: `SPLEN` = 4 bits (R5, R25). -/
abbrev StackPtr := BitVec 4

end Sys2Proof
end

