-- ==== Sys2Proof/Decode.lean ====
section
/-! DEFINITION. The Opcode Decoder (spec/40_decoder.md rules R90 to R93), the opcode map (spec/30_encoding.md rule R74)
and the encoder written from it. Decoding is total: a word that is no instruction is rejected by the class of R76 it
falls in. -/

namespace Sys2Proof

/-- The record of R90: the six overlapping fields of a word (R71). -/
structure Opcode where
  address : BitVec 4
  nnn : BitVec 12
  n : BitVec 4
  x : BitVec 4
  y : BitVec 4
  kk : BitVec 8
  deriving DecidableEq, Repr

/-- R90: `Decode(w)`, pure wiring. -/
def Opcode.ofWord (w : Word) : Opcode where
  address := w.extractLsb' 12 4
  nnn := w.extractLsb' 0 12
  n := w.extractLsb' 0 4
  x := w.extractLsb' 8 4
  y := w.extractLsb' 4 4
  kk := w.extractLsb' 0 8

/-- Why some bytes are no instruction: R76's six classes of Unimplemented words, or fewer than two bytes. -/
inductive DecodeReject where
  /-- `w[15:12] = 0` and `w` is neither 0x00E0 nor 0x00EE -/
  | class0
  /-- class 5 with `n != 0` -/
  | class5
  /-- class 8 with an `n` the table does not list -/
  | class8
  /-- class 9 with `n != 0` -/
  | class9
  /-- class E with a `kk` the table does not list -/
  | classE
  /-- class F with a `kk` the table does not list (`Fx0A` among them, R77) -/
  | classF
  /-- fewer than two bytes: never the case of a fetch, which reads two (R70) -/
  | truncated
  deriving DecidableEq, Repr

/-- A register field as a register number. -/
def Opcode.rx (f : Opcode) : Reg := f.x.toFin

/-- A register field as a register number. -/
def Opcode.ry (f : Opcode) : Reg := f.y.toFin

/-- R92, class 8: the sub-case is `n`. -/
def classify8 (f : Opcode) : Except DecodeReject Instr :=
  match f.n.toNat with
  | 0x0 => .ok (.ldReg f.rx f.ry)
  | 0x1 => .ok (.orReg f.rx f.ry)
  | 0x2 => .ok (.andReg f.rx f.ry)
  | 0x3 => .ok (.xorReg f.rx f.ry)
  | 0x4 => .ok (.addReg f.rx f.ry)
  | 0x5 => .ok (.subReg f.rx f.ry)
  | 0x6 => .ok (.shr f.rx f.ry)
  | 0x7 => .ok (.subnReg f.rx f.ry)
  | 0xE => .ok (.shl f.rx f.ry)
  | _ => .error .class8

/-- R92, class F: the sub-case is `kk`. -/
def classifyF (f : Opcode) : Except DecodeReject Instr :=
  match f.kk.toNat with
  | 0x07 => .ok (.ldVxDt f.rx)
  | 0x15 => .ok (.ldDtVx f.rx)
  | 0x18 => .ok (.ldStVx f.rx)
  | 0x1E => .ok (.addI f.rx)
  | 0x29 => .ok (.ldF f.rx)
  | 0x33 => .ok (.ldB f.rx)
  | 0x55 => .ok (.storeRegs f.rx)
  | 0x65 => .ok (.loadRegs f.rx)
  | _ => .error .classF

/-- R92: `Classify`, total. The sub-case tests of classes 0, 5 and 9 are the strict reading of R75 (D7; log 7). -/
def classify (f : Opcode) : Except DecodeReject Instr :=
  match f.address.toNat with
  | 0x0 => if f.nnn = 0x0E0 then .ok .cls else if f.nnn = 0x0EE then .ok .ret else .error .class0
  | 0x1 => .ok (.jp f.nnn)
  | 0x2 => .ok (.call f.nnn)
  | 0x3 => .ok (.seImm f.rx f.kk)
  | 0x4 => .ok (.sneImm f.rx f.kk)
  | 0x5 => if f.n = 0 then .ok (.seReg f.rx f.ry) else .error .class5
  | 0x6 => .ok (.ldImm f.rx f.kk)
  | 0x7 => .ok (.addImm f.rx f.kk)
  | 0x8 => classify8 f
  | 0x9 => if f.n = 0 then .ok (.sneReg f.rx f.ry) else .error .class9
  | 0xA => .ok (.ldI f.nnn)
  | 0xB => .ok (.jpV0 f.nnn)
  | 0xC => .ok (.rnd f.rx f.kk)
  | 0xD => .ok (.drw f.rx f.ry f.n.toNat)
  | 0xE => if f.kk = 0x9E then .ok (.skp f.rx) else if f.kk = 0xA1 then .ok (.sknp f.rx) else .error .classE
  | _ => classifyF f

/-- Decode one 16-bit word: R90 then R92. -/
def decodeWord (w : Word) : Except DecodeReject Instr := classify (Opcode.ofWord w)

/-- The word of two bytes, the first (lower address) the high byte: big-endian (R51). -/
def wordOfBytes (hi lo : Byte) : Word := hi ++ lo

/-- Bits 15 to 8 of a word: the byte stored at the lower address (R51). -/
def highByte (w : Word) : Byte := w.extractLsb' 8 8

/-- Bits 7 to 0 of a word: the byte stored at the higher address (R51). -/
def lowByte (w : Word) : Byte := w.extractLsb' 0 8

/-- Decode the instruction at the front of some bytes, with the bytes after it: every instruction is two bytes (R70). -/
def decodeBytes : List Byte → Except DecodeReject (Instr × List Byte)
  | hi :: lo :: rest =>
    match decodeWord (wordOfBytes hi lo) with
    | .ok i => .ok (i, rest)
    | .error e => .error e
  | [] => .error .truncated
  | [_] => .error .truncated

/-- The instruction the decoder reads from a table row's word: bit 0 is the least significant bit of the one 16-bit
word, laid out high byte first (R51). No instruction is longer than 16 bits (R70, R78). -/
def decodeTableWord (nbits w : Nat) : Option Instr :=
  let word : Word := BitVec.ofNat 16 (w % 2 ^ nbits)
  match decodeBytes [highByte word, lowByte word] with
  | .ok (i, _) => some i
  | .error _ => none

/-! ## The encoder, from the formats of R72 -/

/-- A register number as its 4-bit field. -/
def regField (x : Reg) : BitVec 4 := BitVec.ofFin x

/-- Format `NNN` (R72). -/
def encodeNNN (op : BitVec 4) (nnn : BitVec 12) : Word := op ++ nnn

/-- Formats `XKK` and `X` (R72; in `X` the field `kk` is fixed). -/
def encodeXKK (op : BitVec 4) (x : Reg) (kk : BitVec 8) : Word := op ++ (regField x ++ kk)

/-- Formats `XYN` and `XY` (R72; in `XY` the field `n` is fixed). -/
def encodeXYN (op : BitVec 4) (x y : Reg) (n : BitVec 4) : Word := op ++ (regField x ++ (regField y ++ n))

/-- The word of an instruction (R74); for a well-formed one no operand bit is dropped. -/
def encode : Instr → Word
  | .cls => 0x00E0
  | .ret => 0x00EE
  | .jp nnn => encodeNNN 0x1 nnn
  | .call nnn => encodeNNN 0x2 nnn
  | .seImm x kk => encodeXKK 0x3 x kk
  | .sneImm x kk => encodeXKK 0x4 x kk
  | .seReg x y => encodeXYN 0x5 x y 0x0
  | .ldImm x kk => encodeXKK 0x6 x kk
  | .addImm x kk => encodeXKK 0x7 x kk
  | .ldReg x y => encodeXYN 0x8 x y 0x0
  | .orReg x y => encodeXYN 0x8 x y 0x1
  | .andReg x y => encodeXYN 0x8 x y 0x2
  | .xorReg x y => encodeXYN 0x8 x y 0x3
  | .addReg x y => encodeXYN 0x8 x y 0x4
  | .subReg x y => encodeXYN 0x8 x y 0x5
  | .shr x y => encodeXYN 0x8 x y 0x6
  | .subnReg x y => encodeXYN 0x8 x y 0x7
  | .shl x y => encodeXYN 0x8 x y 0xE
  | .sneReg x y => encodeXYN 0x9 x y 0x0
  | .ldI nnn => encodeNNN 0xA nnn
  | .jpV0 nnn => encodeNNN 0xB nnn
  | .rnd x kk => encodeXKK 0xC x kk
  | .drw x y n => encodeXYN 0xD x y (BitVec.ofNat 4 n)
  | .skp x => encodeXKK 0xE x 0x9E
  | .sknp x => encodeXKK 0xE x 0xA1
  | .ldVxDt x => encodeXKK 0xF x 0x07
  | .ldDtVx x => encodeXKK 0xF x 0x15
  | .ldStVx x => encodeXKK 0xF x 0x18
  | .addI x => encodeXKK 0xF x 0x1E
  | .ldF x => encodeXKK 0xF x 0x29
  | .ldB x => encodeXKK 0xF x 0x33
  | .storeRegs x => encodeXKK 0xF x 0x55
  | .loadRegs x => encodeXKK 0xF x 0x65

/-! ## The opcode map of R74 -/

/-- One row of R74: a word `w` is the row's when `w &&& mask = value`. -/
structure OpcodeRow where
  pattern : String
  mask : Word
  value : Word
  deriving DecidableEq, Repr

/-- A word belongs to a row (R74). -/
def OpcodeRow.matchesWord (r : OpcodeRow) (w : Word) : Bool := (w &&& r.mask) == r.value

/-- The row of R74 an instruction stands for. -/
def Instr.row : Instr → OpcodeRow
  | .cls => ⟨"00E0", 0xFFFF, 0x00E0⟩
  | .ret => ⟨"00EE", 0xFFFF, 0x00EE⟩
  | .jp _ => ⟨"1nnn", 0xF000, 0x1000⟩
  | .call _ => ⟨"2nnn", 0xF000, 0x2000⟩
  | .seImm _ _ => ⟨"3xkk", 0xF000, 0x3000⟩
  | .sneImm _ _ => ⟨"4xkk", 0xF000, 0x4000⟩
  | .seReg _ _ => ⟨"5xy0", 0xF00F, 0x5000⟩
  | .ldImm _ _ => ⟨"6xkk", 0xF000, 0x6000⟩
  | .addImm _ _ => ⟨"7xkk", 0xF000, 0x7000⟩
  | .ldReg _ _ => ⟨"8xy0", 0xF00F, 0x8000⟩
  | .orReg _ _ => ⟨"8xy1", 0xF00F, 0x8001⟩
  | .andReg _ _ => ⟨"8xy2", 0xF00F, 0x8002⟩
  | .xorReg _ _ => ⟨"8xy3", 0xF00F, 0x8003⟩
  | .addReg _ _ => ⟨"8xy4", 0xF00F, 0x8004⟩
  | .subReg _ _ => ⟨"8xy5", 0xF00F, 0x8005⟩
  | .shr _ _ => ⟨"8xy6", 0xF00F, 0x8006⟩
  | .subnReg _ _ => ⟨"8xy7", 0xF00F, 0x8007⟩
  | .shl _ _ => ⟨"8xyE", 0xF00F, 0x800E⟩
  | .sneReg _ _ => ⟨"9xy0", 0xF00F, 0x9000⟩
  | .ldI _ => ⟨"Annn", 0xF000, 0xA000⟩
  | .jpV0 _ => ⟨"Bnnn", 0xF000, 0xB000⟩
  | .rnd _ _ => ⟨"Cxkk", 0xF000, 0xC000⟩
  | .drw _ _ _ => ⟨"Dxyn", 0xF000, 0xD000⟩
  | .skp _ => ⟨"Ex9E", 0xF0FF, 0xE09E⟩
  | .sknp _ => ⟨"ExA1", 0xF0FF, 0xE0A1⟩
  | .ldVxDt _ => ⟨"Fx07", 0xF0FF, 0xF007⟩
  | .ldDtVx _ => ⟨"Fx15", 0xF0FF, 0xF015⟩
  | .ldStVx _ => ⟨"Fx18", 0xF0FF, 0xF018⟩
  | .addI _ => ⟨"Fx1E", 0xF0FF, 0xF01E⟩
  | .ldF _ => ⟨"Fx29", 0xF0FF, 0xF029⟩
  | .ldB _ => ⟨"Fx33", 0xF0FF, 0xF033⟩
  | .storeRegs _ => ⟨"Fx55", 0xF0FF, 0xF055⟩
  | .loadRegs _ => ⟨"Fx65", 0xF0FF, 0xF065⟩

/-- R74's rows, in its order, classes 0 to 8. -/
def opcodeTableLow : List OpcodeRow :=
  [Instr.row .cls, Instr.row .ret, Instr.row (.jp 0), Instr.row (.call 0), Instr.row (.seImm 0 0),
   Instr.row (.sneImm 0 0), Instr.row (.seReg 0 0), Instr.row (.ldImm 0 0), Instr.row (.addImm 0 0),
   Instr.row (.ldReg 0 0), Instr.row (.orReg 0 0), Instr.row (.andReg 0 0), Instr.row (.xorReg 0 0),
   Instr.row (.addReg 0 0), Instr.row (.subReg 0 0), Instr.row (.shr 0 0), Instr.row (.subnReg 0 0),
   Instr.row (.shl 0 0)]

/-- R74's rows, in its order, classes 9 to F. -/
def opcodeTableHigh : List OpcodeRow :=
  [Instr.row (.sneReg 0 0), Instr.row (.ldI 0), Instr.row (.jpV0 0), Instr.row (.rnd 0 0), Instr.row (.drw 0 0 0),
   Instr.row (.skp 0), Instr.row (.sknp 0), Instr.row (.ldVxDt 0), Instr.row (.ldDtVx 0), Instr.row (.ldStVx 0),
   Instr.row (.addI 0), Instr.row (.ldF 0), Instr.row (.ldB 0), Instr.row (.storeRegs 0), Instr.row (.loadRegs 0)]

/-- The complete map of R74: 33 rows. -/
def opcodeTable : List OpcodeRow := opcodeTableLow ++ opcodeTableHigh

end Sys2Proof
end

