-- ==== Sys2Proof/Config.lean ====
section
/-! DEFINITION. The configuration of spec/00_scope.md rule R5 as one structure, an argument of every operation it bears on
(R32), its constraints, and the free values: what the spec leaves to the host and no rule determines. The
values this hardware takes are in Sys2Proof/Machine/Settings.lean. -/

namespace Sys2Proof

/-- The parameters of R5, under the spec's names. `OUT_W`, `OUT_H` and `STRIDE` are arguments of one scaler call. -/
structure Params where
  /-- `NREG` -/
  nreg : Nat
  /-- `XLEN` -/
  xlen : Nat
  /-- `ILEN` -/
  ilen : Nat
  /-- `MEM_SIZE` (D2, U2) -/
  memSize : Nat
  /-- `PCLEN` (D3) -/
  pclen : Nat
  /-- `STACK_SLOTS` -/
  stackSlots : Nat
  /-- `SPLEN` -/
  splen : Nat
  /-- `PROG_BASE` -/
  progBase : Nat
  /-- `FONT_BASE` (D4, U3) -/
  fontBase : Nat
  /-- `FONT_STRIDE` -/
  fontStride : Nat
  /-- the bytes of the font table (R56, D4, U3) -/
  font : List Byte
  /-- `LW` -/
  lw : Nat
  /-- `LH` -/
  lh : Nat
  /-- `PC_QUIRK` (D1, U1) -/
  pcQuirk : Bool
  deriving DecidableEq, Repr

/-- The four constraints of R5, "that every rule assumes". -/
structure Params.Constraints (p : Params) : Prop where
  memAboveProgram : 0x200 < p.memSize
  memAddressable : p.memSize ≤ 4096
  fontBelowProgram : p.fontBase + 80 ≤ p.progBase
  someColumn : 1 ≤ p.lw
  someRow : 1 ≤ p.lh

/-- The widths the types of State and Instr have. CH8 and the encoding fix them (R20, R22, R25, R71, D3): the model holds
no machine of other widths (log 32). -/
structure Params.FitsTypes (p : Params) : Prop where
  nreg : p.nreg = 16
  xlen : p.xlen = 8
  ilen : p.ilen = 12
  pclen : p.pclen = 16
  splen : p.splen = 4

/-- A configuration a hardware of this spec can have: R5's constraints, the widths, and what CH8 fixes beside them: some
stack slots, all of them in SP's reach, a program base inside memory, and 16 glyphs of 5 bytes (R28; log 32). -/
structure Params.Valid (p : Params) : Prop extends p.Constraints, p.FitsTypes where
  someSlot : 1 ≤ p.stackSlots
  slotsInReach : p.stackSlots ≤ 2 ^ p.splen
  programInMemory : p.progBase < p.memSize
  glyphBytes : p.fontStride = 5
  fontBytes : p.font.length = 80

/-- FREE VALUE (R30, U5; log 10): the 16 key levels the host presents at the `n`-th sampling that no tape entry covers. -/
opaque Config.keyLevels : Nat → BitVec 16

/-- FREE VALUE (R30, R141, D10, U4; log 9): the random byte of the `n`-th draw that no tape entry covers. -/
opaque Config.randomByte : Nat → Byte

end Sys2Proof
end

