-- ==== Sys2Proof/Machine/Settings.lean ====
section
/-! DEFINITION. The value this hardware takes for each parameter of spec/00_scope.md rule R5, and `hardware`, the
configuration they make: the default of every operation that takes a configuration. -/

namespace Sys2Proof

/-- `NREG` (R5, R20). -/
abbrev Config.nreg : Nat := 16

/-- `XLEN` (R5, R20). -/
abbrev Config.xlen : Nat := 8

/-- `ILEN` (R5, R22). -/
abbrev Config.ilen : Nat := 12

/-- `PCLEN` (R5, R26; the spec's decision D3; log 3). -/
abbrev Config.pclen : Nat := 16

/-- `STACK_SLOTS` (R5, R27). -/
abbrev Config.stackSlots : Nat := 16

/-- `SPLEN` (R5, R25). -/
abbrev Config.splen : Nat := 4

/-- `LW`: display columns (R5, CH8 §3 "64×32 in the standard profile"). -/
abbrev Config.displayWidth : Nat := 64

/-- `LH`: display rows (R5). -/
abbrev Config.displayHeight : Nat := 32

/-- `MEM_SIZE`: 4096 bytes (R5, R28; the spec's decision D2; log 2). -/
abbrev Config.memSize : Nat := 4096

/-- `PROG_BASE`: where the program image is loaded and where the pc stands after reset (R5, R55). -/
abbrev Config.progBase : Nat := 0x200

/-- `FONT_BASE`: address of glyph 0 (R5; the spec's decision D4; log 4). -/
abbrev Config.fontBase : Nat := 0x000

/-- `FONT_STRIDE`: bytes per glyph (R5). -/
abbrev Config.fontStride : Nat := 5

/-- `PC_QUIRK`: false, the conventional PC rule (R5, R102; the spec's decision D1; log 1). The other setting is
modelled too. -/
abbrev Config.pcQuirk : Bool := false

/-- R56, glyphs 0 to 3. -/
def Config.fontA : List Byte :=
  [0xF0, 0x90, 0x90, 0x90, 0xF0,  0x20, 0x60, 0x20, 0x20, 0x70,
   0xF0, 0x10, 0xF0, 0x80, 0xF0,  0xF0, 0x10, 0xF0, 0x10, 0xF0]

/-- R56, glyphs 4 to 7. -/
def Config.fontB : List Byte :=
  [0x90, 0x90, 0xF0, 0x10, 0x10,  0xF0, 0x80, 0xF0, 0x10, 0xF0,
   0xF0, 0x80, 0xF0, 0x90, 0xF0,  0xF0, 0x10, 0x20, 0x40, 0x40]

/-- R56, glyphs 8 to B. -/
def Config.fontC : List Byte :=
  [0xF0, 0x90, 0xF0, 0x90, 0xF0,  0xF0, 0x90, 0xF0, 0x10, 0xF0,
   0xF0, 0x90, 0xF0, 0x90, 0x90,  0xE0, 0x90, 0xE0, 0x90, 0xE0]

/-- R56, glyphs C to F. -/
def Config.fontD : List Byte :=
  [0xF0, 0x80, 0x80, 0x80, 0xF0,  0xE0, 0x90, 0x90, 0x90, 0xE0,
   0xF0, 0x80, 0xF0, 0x80, 0xF0,  0xF0, 0x80, 0xF0, 0x80, 0x80]

/-- The font table's 80 bytes (R56, G1; log 4): glyph `d` is the five bytes from `5 * d`. -/
def Config.font : List Byte := Config.fontA ++ Config.fontB ++ Config.fontC ++ Config.fontD

/-- The configuration of this hardware (R5). -/
def hardware : Params where
  nreg := Config.nreg
  xlen := Config.xlen
  ilen := Config.ilen
  memSize := Config.memSize
  pclen := Config.pclen
  stackSlots := Config.stackSlots
  splen := Config.splen
  progBase := Config.progBase
  fontBase := Config.fontBase
  fontStride := Config.fontStride
  font := Config.font
  lw := Config.displayWidth
  lh := Config.displayHeight
  pcQuirk := Config.pcQuirk

end Sys2Proof
end

