-- ==== Sys2Proof/Machine/State.lean ====
section
/-! DEFINITION. The state of the machine as plain data (spec/10_state.md), the reasons a step can stop
(spec/60_exceptions.md), and the state after reset (spec/10_state.md rule R36). -/

namespace Sys2Proof.Machine

/-- `mem` (R28) as the cells that differ from the reset contents, addresses strictly rising (log 24); its operations
and its canonical form `Memory.wf` are in Ops.lean. -/
abbrev Memory := List Host.Cell

/-- The Display Buffer (R29), one bit a cell, as the cells that are on, each a row and a column, in row-major order; so
that the type is the same whatever `LW` and `LH` are (log 33). Its operations and its canonical form `Display.wf` are in
Ops.lean. -/
abbrev Display := List (Nat × Nat)

/-- One record on the diagnostic channel (R215): the Unimplemented word and the address it was fetched from. -/
structure DiagRecord where
  word : Word
  ia : Word
  deriving DecidableEq, Repr

/-- What the host can do to the core's state, each atomic and between ticks (R62, R212). The two read-only operations,
`displaySnapshot` and `scaleToPresentationBuffer`, are functions of a state (Scaler.lean). -/
inductive HostOp where
  /-- R220 -/
  | reset
  /-- R221 -/
  | loadProgram (bytes : List Byte)
  /-- R168 -/
  | timerTick
  /-- R100 -/
  | tick
  deriving DecidableEq, Repr

/-- Which of the two stack instructions raised a `StackFault` (R200, R201). -/
inductive StackOp where
  | call
  | ret
  deriving DecidableEq, Repr

/-- Which access raised a `MemoryFault` (R200, R202). -/
inductive MemAccess where
  | fetch
  | index
  | load
  | store
  deriving DecidableEq, Repr

/-- The failures of a step (R200). All come from the spec: safe. No state goes with one: a fault changes nothing
(R106, R206; log 11). -/
inductive Fault where
  /-- R201: `2nnn` with the stack full (`SP = 15` on this hardware) or `00EE` with `SP = 0`; raised at address `ia`. Safe. -/
  | stackFault (op : StackOp) (ia : Word)
  /-- R202: fetch, `Fx1E`, `Fx33`, `Fx55`, `Fx65` or `Dxyn` addressing at or beyond `MEM_SIZE`. Safe. -/
  | memoryFault (access : MemAccess) (addr : Nat) (ia : Word)
  /-- R203: `loadProgram`, a host operation, with an image that does not fit; never a tick's. Safe (log 22). -/
  | loadTooLarge
  deriving DecidableEq, Repr

/-- The refusals of a step. -/
inductive Refusal where
  /-- An instruction without a meaning, by its mnemonic: raised by no arm of this model. Safe. -/
  | notModelled (mnemonic : String)
  deriving DecidableEq, Repr

/-- The state: the elements of spec/10_state.md, then the model's own fields for the inputs and outputs that `step`
has no other place for (R30 to R32; logs 9, 10, 13, 14). -/
structure State where
  /-- V0 to VF (R20); VF is the flag (R21) -/
  v : Vector Byte 16
  /-- I (R22) -/
  i : Addr
  /-- DT (R23) -/
  dt : Byte
  /-- ST (R24) -/
  st : Byte
  /-- SP (R25) -/
  sp : StackPtr
  /-- pc (R26) -/
  pc : Word
  /-- the call stack (R27): a slot for every value of SP, of which `STACK_SLOTS` are used -/
  stack : Vector Word 16
  /-- mem (R28) -/
  mem : Memory
  /-- D (R29) -/
  display : Display
  /-- MODEL'S OWN, an output: the diagnostic records emitted since reset, oldest first (R31, R215; log 14) -/
  diagLog : List DiagRecord
  /-- MODEL'S OWN, an input: the key levels at the next samplings, bit `k` for key `k` (R30; log 10) -/
  keyTape : List (BitVec 16)
  /-- MODEL'S OWN: how often the keys have been sampled (log 10) -/
  keySamples : Nat
  /-- MODEL'S OWN, an input: the bytes of the next random draws (R30; log 9) -/
  rndTape : List Byte
  /-- MODEL'S OWN: how many random bytes have been drawn (log 9) -/
  rndDraws : Nat
  /-- MODEL'S OWN, an input: what the host does next, oldest first; empty means it ticks (R212, R169; log 13) -/
  hostOps : List HostOp
  deriving DecidableEq, Repr

/-- R36, R220: every element at its reset value under the configuration `p`; memory lists nothing, so it reads as the
font table and zeros (log 24). The register values CH8 does not state are the spec's decision D5 (log 5). -/
def State.resetFor (p : Params) : State where
  v := Vector.replicate 16 0
  i := 0
  dt := 0
  st := 0
  sp := 0
  pc := BitVec.ofNat 16 p.progBase
  stack := Vector.replicate 16 0
  mem := []
  display := []
  diagLog := []
  keyTape := []
  keySamples := 0
  rndTape := []
  rndDraws := 0
  hostOps := []

/-- R36: this hardware after reset. -/
def State.reset : State := State.resetFor hardware

end Sys2Proof.Machine
end

