-- ==== Sys2Proof/Machine/Ops.lean ====
section
/-! DEFINITION. The shared operations every meaning is written over: memory (spec/20_memory.md), registers and stack
(spec/10_state.md), the PC rule (spec/41_executor_tick.md R102), display cells (spec/46_display.md R177), the sampled
inputs (spec/10_state.md R30) and raising a fault (spec/41_executor_tick.md R106). -/

namespace Sys2Proof.Machine

/-- What a meaning, a tick and a step answer. -/
abbrev Out := Host.Outcome State Fault Refusal

/-! ## Memory -/

/-- What an address that memory does not list reads as: the reset contents, the font table at `FONT_BASE` and 0
elsewhere (R36, R55, R56; log 24). -/
def resetByte (a : Nat) (p : Params := hardware) : Byte :=
  if p.fontBase ≤ a then p.font.getD (a - p.fontBase) 0 else 0

/-- `MemRead(a, 1)` (R7). -/
def Memory.read (m : Memory) (a : Nat) (p : Params := hardware) : Byte :=
  match m with
  | [] => resetByte a p
  | (k, b) :: rest => if k = a then b else Memory.read rest a p

/-- List a cell before the first cell of a higher address. -/
def Memory.insert (a : Nat) (b : Byte) : Memory → Memory
  | [] => [(a, b)]
  | (k, c) :: rest => if a < k then (a, b) :: (k, c) :: rest else (k, c) :: Memory.insert a b rest

/-- The cells of every address but `a`. -/
def Memory.erase (m : Memory) (a : Nat) : Memory := m.filter fun c => c.1 != a

/-- `MemWrite(a, 1, b)` (R7); writing what an unlisted address reads as unlists the address, so equal memories are
equal lists. -/
def Memory.write (m : Memory) (a : Nat) (b : Byte) (p : Params := hardware) : Memory :=
  if b = resetByte a p then m.erase a else (m.erase a).insert a b

/-- Single-byte writes at ascending addresses (R52). -/
def Memory.writeBytes (m : Memory) (a : Nat) (bs : List Byte) (p : Params := hardware) : Memory :=
  match bs with
  | [] => m
  | b :: rest => Memory.writeBytes (m.write a b p) (a + 1) rest p

/-- The canonical form from address `lo` on: addresses strictly rising and inside memory, no cell equal to the reset
contents. -/
def Memory.wfFrom (lo : Nat) (m : Memory) (p : Params := hardware) : Bool :=
  match m with
  | [] => true
  | (k, b) :: rest =>
    decide (lo ≤ k) && decide (k < p.memSize) && b != resetByte k p && Memory.wfFrom (k + 1) rest p

/-- The canonical form of a memory. -/
def Memory.wf (m : Memory) (p : Params := hardware) : Bool := Memory.wfFrom 0 m p

/-- One byte of a state's memory. -/
def State.readByte (s : State) (a : Nat) (p : Params := hardware) : Byte := s.mem.read a p

/-- Store some bytes at ascending addresses (R52). -/
def State.writeBytes (s : State) (a : Nat) (bs : List Byte) (p : Params := hardware) : State :=
  { s with mem := s.mem.writeBytes a bs p }

/-! ## Registers and stack -/

/-- `V[x]` (R7, R20). -/
def State.reg (s : State) (x : Reg) : Byte := s.v[x.val]

/-- `V[x] <- b` (R7, R20). -/
def State.setReg (s : State) (x : Reg) (b : Byte) : State := { s with v := s.v.set x.val b }

/-- `stack[k]` (R7, R27). -/
def State.slot (s : State) (k : StackPtr) : Word := s.stack[k.toNat]'k.isLt

/-- `stack[k] <- w` (R7, R27). -/
def State.setSlot (s : State) (k : StackPtr) (w : Word) : State := { s with stack := s.stack.set k.toNat w k.isLt }

/-! ## The PC rule of R102, for either setting `q` of `PC_QUIRK` -/

/-- `pc_h`, the PC a handler sees and `2nnn` saves. -/
def handlerPc (q : Bool) (ia : Word) : Word := if q then ia else ia + 2

/-- `POST`, added to what the handler leaves. -/
def postAdd (q : Bool) : Word := if q then 2 else 0

/-- The one write of the pc a successful tick makes: what the handler leaves, plus `POST`. -/
def State.leavePc (s : State) (p : Word) (q : Bool := Config.pcQuirk) : State := { s with pc := p + postAdd q }

/-- An instruction that does not touch the PC leaves `pc_h` (R102, R103). -/
def State.advance (s : State) (q : Bool := Config.pcQuirk) : State := s.leavePc (handlerPc q s.pc) q

/-- A skip (R120): two more than `pc_h` when taken, `pc_h` when not. -/
def State.skipIf (s : State) (taken : Bool) (q : Bool := Config.pcQuirk) : State :=
  s.leavePc (if taken then handlerPc q s.pc + 2 else handlerPc q s.pc) q

/-! ## Display cells -/

/-- Every cell off (R175, R36). -/
def Display.blank : Display := []

/-- The cell that coordinates name, always wrapped: row `y mod LH`, column `x mod LW` (R177). -/
def cellAt (x y : Nat) (p : Params := hardware) : Nat × Nat := (y % p.lh, x % p.lw)

/-- `D[y mod LH][x mod LW]` (R177). -/
def Display.cell (d : Display) (x y : Nat) (p : Params := hardware) : Bool := d.contains (cellAt x y p)

/-- One cell stands before another in row-major order (R178). -/
def cellBefore (c k : Nat × Nat) : Bool := decide (c.1 < k.1) || (c.1 == k.1 && decide (c.2 < k.2))

/-- List a cell before the first cell that stands after it. -/
def Display.insert (c : Nat × Nat) : Display → Display
  | [] => [c]
  | k :: rest => if cellBefore c k then c :: k :: rest else k :: Display.insert c rest

/-- Every cell that is on but `c`. -/
def Display.erase (d : Display) (c : Nat × Nat) : Display := d.filter fun k => k != c

/-- `D[y mod LH][x mod LW] <- b` (R177). -/
def Display.setCell (d : Display) (x y : Nat) (b : Bool) (p : Params := hardware) : Display :=
  if b then (d.erase (cellAt x y p)).insert (cellAt x y p) else d.erase (cellAt x y p)

/-- The canonical form of a display: its cells lie on the grid and stand in row-major order, none twice; so equal displays
are equal lists. -/
def Display.wf (d : Display) (p : Params := hardware) : Bool :=
  d.all (fun c => decide (c.1 < p.lh) && decide (c.2 < p.lw)) && decide (d.Pairwise fun c k => cellBefore c k = true)

/-! ## The two inputs a tick samples (R30) -/

/-- The key levels at this tick: the next the host's tape holds, else a free value (log 10). -/
def State.keyLevels (s : State) : BitVec 16 := s.keyTape.headD (Config.keyLevels s.keySamples)

/-- The state once the keys have been sampled. -/
def State.keysSampled (s : State) : State := { s with keyTape := s.keyTape.tail, keySamples := s.keySamples + 1 }

/-- `KeyDown(k)` at this tick (R7, R213). -/
def State.keyDown (s : State) (k : Fin 16) : Bool := s.keyLevels.getLsbD k.val

/-- `RandomByte()` at this tick: the next the host's tape holds, else a free value (log 9). -/
def State.randomByte (s : State) : Byte := s.rndTape.headD (Config.randomByte s.rndDraws)

/-- The state once the random byte has been drawn. -/
def State.randomDrawn (s : State) : State := { s with rndTape := s.rndTape.tail, rndDraws := s.rndDraws + 1 }

/-! ## Faults: `raise F(info)` (R7, R106, R206)

Nothing is saved, nothing vectors and no state element changes: a fault is the tick's answer, and there is nothing to
return from. -/

/-- Raise `StackFault` (R201). -/
def State.stackFault (s : State) (op : StackOp) : Out := .fault (.stackFault op s.pc)

/-- Raise `MemoryFault` (R202). -/
def State.memoryFault (s : State) (access : MemAccess) (addr : Nat) : Out := .fault (.memoryFault access addr s.pc)

/-- R58, R156: check the highest address an instruction touches once, before its first access. -/
def State.checked (s : State) (access : MemAccess) (last : Nat) (t : State) (p : Params := hardware) : Out :=
  if p.memSize ≤ last then s.memoryFault access last else .next t

/-- R105: the no-op of an Unimplemented word `w`: one diagnostic record and the pc's advance. -/
def State.unimplemented (s : State) (w : Word) (p : Params := hardware) : State :=
  ({ s with diagLog := s.diagLog ++ [DiagRecord.mk w s.pc] }).advance p.pcQuirk

end Sys2Proof.Machine
end

