-- ==== Sys2Proof/Machine/Operands.lean ====
section
/-! DEFINITION. The operand forms of spec/30_encoding.md rule R73 and spec/44_index_memory.md rule R156. Register direct
is `State.reg`; every immediate is unsigned and zero-extended, never scaled. A meaning reads every operand from the
state it starts in (the latched `vx`, `vy`, `v0`, `i0` of spec/41_executor_tick.md rule R104). -/

namespace Sys2Proof.Machine

/-- V0, the implicit operand of `Bnnn` (R117). -/
def vZero : Reg := 0

/-- VF, the flag register (R21). -/
def vFlag : Reg := 15

/-- `zext_16(nnn)`: a 12-bit address as a pc (R73). -/
def pcOfAddr (nnn : Addr) : Word := nnn.setWidth 16

/-- `zext_16(v)`: a register value added to a pc (R117). -/
def pcOfByte (b : Byte) : Word := b.setWidth 16

/-- `vx[3:0]`: the key number (R118, D8) or font digit (R152, D9) of a register value (log 8). -/
def lowNibble (b : Byte) : Fin 16 := (b.extractLsb' 0 4).toFin

/-- `FONT_BASE + FONT_STRIDE * d`: the address of glyph `d` (R152). -/
def glyphAddress (d : Fin 16) (p : Params := hardware) : Addr :=
  BitVec.ofNat 12 (p.fontBase + p.fontStride * d.val)

/-- The effective address `i0 + k`, a natural number that never wraps (R156). -/
def State.ea (s : State) (k : Nat) : Nat := s.i.toNat + k

/-- The three decimal digits of a register value, hundreds first (R153). -/
def bcdDigits (b : Byte) : List Byte :=
  [BitVec.ofNat 8 (b.toNat / 100), BitVec.ofNat 8 (b.toNat / 10 % 10), BitVec.ofNat 8 (b.toNat % 10)]

/-- V0 to Vx, in ascending order (R154). -/
def State.regBlock (s : State) (x : Reg) : List Byte := s.v.toList.take (x.val + 1)

/-- V0 to Vx replaced by the bytes from `a` on (R155); the loads cannot disturb one another. -/
def State.loadBlock (s : State) (x : Reg) (a : Nat) (p : Params := hardware) : State :=
  { s with v := Vector.ofFn fun k : Fin 16 => if k.val ≤ x.val then s.readByte (a + k.val) p else s.v[k.val] }

end Sys2Proof.Machine
end

