-- ==== Sys2Proof/Machine/ControlFlow.lean ====
section
/-! DEFINITION. Control transfer (spec/42_control_flow.md). Every meaning takes the
configuration as its last argument, this hardware's by default (R5, R32). -/

namespace Sys2Proof.Machine

/-- R110, `00EE` RET. -/
def execRet (s : State) (p : Params := hardware) : Out :=
  if s.sp = 0 then s.stackFault .ret else .next ({ s with sp := s.sp - 1 }.leavePc (s.slot s.sp) p.pcQuirk)

/-- R111, `1nnn` JP nnn. -/
def execJp (nnn : Addr) (s : State) (p : Params := hardware) : Out := .next (s.leavePc (pcOfAddr nnn) p.pcQuirk)

/-- R112, `2nnn` CALL nnn: increment first, store second (C1; log 30). The stack is full at
`SP = STACK_SLOTS - 1`, 15 on this hardware (log 32). -/
def execCall (nnn : Addr) (s : State) (p : Params := hardware) : Out :=
  if p.stackSlots ≤ s.sp.toNat + 1 then s.stackFault .call
  else .next (({ s with sp := s.sp + 1 }.setSlot (s.sp + 1) (handlerPc p.pcQuirk s.pc)).leavePc (pcOfAddr nnn) p.pcQuirk)

/-- R117, `Bnnn` JP V0, nnn: a 16-bit sum, not reduced modulo 4096. -/
def execJpV0 (nnn : Addr) (s : State) (p : Params := hardware) : Out :=
  .next (s.leavePc (pcOfAddr nnn + pcOfByte (s.reg vZero)) p.pcQuirk)

/-- R113, `3xkk` SE Vx, kk. -/
def execSeImm (x : Reg) (kk : Byte) (s : State) (p : Params := hardware) : Out :=
  .next (s.skipIf (s.reg x == kk) p.pcQuirk)

/-- R114, `4xkk` SNE Vx, kk. -/
def execSneImm (x : Reg) (kk : Byte) (s : State) (p : Params := hardware) : Out :=
  .next (s.skipIf (s.reg x != kk) p.pcQuirk)

/-- R115, `5xy0` SE Vx, Vy. -/
def execSeReg (x y : Reg) (s : State) (p : Params := hardware) : Out :=
  .next (s.skipIf (s.reg x == s.reg y) p.pcQuirk)

/-- R116, `9xy0` SNE Vx, Vy. -/
def execSneReg (x y : Reg) (s : State) (p : Params := hardware) : Out :=
  .next (s.skipIf (s.reg x != s.reg y) p.pcQuirk)

/-- R118, `Ex9E` SKP Vx: the keys are sampled once. -/
def execSkp (x : Reg) (s : State) (p : Params := hardware) : Out :=
  .next (s.keysSampled.skipIf (s.keyDown (lowNibble (s.reg x))) p.pcQuirk)

/-- R119, `ExA1` SKNP Vx: the keys are sampled once. -/
def execSknp (x : Reg) (s : State) (p : Params := hardware) : Out :=
  .next (s.keysSampled.skipIf (!s.keyDown (lowNibble (s.reg x))) p.pcQuirk)

end Sys2Proof.Machine
end

