-- ==== Sys2Proof/Machine/Flags.lean ====
section
/-! DEFINITION. The flag computations (spec/10_state.md rule R21, spec/43_load_alu.md rules R136 to R143): the one flag is
VF, written with 0 or 1. -/

namespace Sys2Proof.Machine

/-- A flag as the byte VF receives: 1 or 0 (R21). -/
def flagByte (f : Bool) : Byte := if f then 1 else 0

/-- The carry of an 8-bit sum: 1 when `a + b > 255` (R136, R142). -/
def carryOut (a b : Byte) : Bool := decide (255 < a.toNat + b.toNat)

/-- The subtraction flag: the strict comparison `a > b`, no borrow's complement (R137, R139, R142). -/
def strictlyGreater (a b : Byte) : Bool := decide (b.toNat < a.toNat)

/-- The bit a right shift moves out: bit 0 (R138). -/
def shiftedOutLow (a : Byte) : Bool := a.getLsbD 0

/-- The bit a left shift moves out: bit 7 (R140). -/
def shiftedOutHigh (a : Byte) : Bool := a.getLsbD 7

/-- `V[15] <- flag`. -/
def State.setFlag (s : State) (f : Bool) : State := s.setReg vFlag (flagByte f)

/-- R143: VF first, then Vx, so that with `x = 15` the result stands and the flag is lost. -/
def State.setFlagThenReg (s : State) (f : Bool) (x : Reg) (b : Byte) : State := (s.setFlag f).setReg x b

end Sys2Proof.Machine
end

