-- ==== Sys2Proof/Machine/DisplayDraw.lean ====
section
/-! DEFINITION. The Display Buffer's two instructions (spec/46_display.md). Every coordinate wraps, so nothing is clipped
(R177). -/

namespace Sys2Proof.Machine

/-- R175, `00E0` CLS. -/
def execCls (s : State) (p : Params := hardware) : Out :=
  .next ({ s with display := Display.blank }.advance p.pcQuirk)

/-- One pixel of R176's inner loop: XOR bit `7 - col` of the sprite byte into its cell, and note a cell that goes from
on to off. -/
def plotPixel (vx vy : Nat) (b : Byte) (row : Nat) (acc : Display × Bool) (col : Nat) (p : Params := hardware) :
    Display × Bool :=
  let bit := b.getLsbD (7 - col)
  let old := Display.cell acc.1 (vx + col) (vy + row) p
  (Display.setCell acc.1 (vx + col) (vy + row) (old ^^ bit) p, acc.2 || (old && bit))

/-- One row of R176: the eight columns, left to right. -/
def drawRow (vx vy : Nat) (b : Byte) (row : Nat) (acc : Display × Bool) (p : Params := hardware) : Display × Bool :=
  (List.range 8).foldl (fun acc col => plotPixel vx vy b row acc col p) acc

/-- The loops of R176: `n` rows top to bottom, row `r` from the byte at `a + r`; the display and the collision. With
`LW < 8` or `LH < n` a cell can be touched more than once, and this order defines the result. -/
def drawSprite (m : Memory) (a vx vy n : Nat) (d : Display) (p : Params := hardware) : Display × Bool :=
  (List.range n).foldl (fun acc row => drawRow vx vy (m.read (a + row) p) row acc p) (d, false)

/-- R176, `Dxyn` DRW Vx, Vy, n: VF is written once, after the whole sprite, also when nothing collided. With `n = 0`
nothing is read and VF is 0 (D19; log 19). -/
def execDrw (x y : Reg) (n : Nat) (s : State) (p : Params := hardware) : Out :=
  if 1 ≤ n ∧ p.memSize ≤ s.ea (n - 1) then s.memoryFault .load (s.ea (n - 1))
  else
    let r := drawSprite s.mem (s.ea 0) (s.reg x).toNat (s.reg y).toNat n s.display p
    .next (({ s with display := r.1 }.setFlag r.2).advance p.pcQuirk)

end Sys2Proof.Machine
end

