-- ==== Sys2Proof/Machine/IndexMemory.lean ====
section
/-! DEFINITION. Index register and memory transfer (spec/44_index_memory.md). `I` is the base of every access and only
`Annn`, `Fx1E` and `Fx29` change it (R156). -/

namespace Sys2Proof.Machine

/-- R150, `Annn` LD I, nnn. -/
def execLdI (nnn : Addr) (s : State) (p : Params := hardware) : Out := .next ({ s with i := nnn }.advance p.pcQuirk)

/-- R151, `Fx1E` ADD I, Vx: the sum must stay addressable; VF is not written. -/
def execAddI (x : Reg) (s : State) (p : Params := hardware) : Out :=
  s.checked .index (s.ea (s.reg x).toNat) ({ s with i := BitVec.ofNat 12 (s.ea (s.reg x).toNat) }.advance p.pcQuirk) p

/-- R152, `Fx29` LD F, Vx. -/
def execLdF (x : Reg) (s : State) (p : Params := hardware) : Out :=
  .next ({ s with i := glyphAddress (lowNibble (s.reg x)) p }.advance p.pcQuirk)

/-- R153, `Fx33` LD B, Vx. -/
def execLdB (x : Reg) (s : State) (p : Params := hardware) : Out :=
  s.checked .store (s.ea 2) ((s.writeBytes (s.ea 0) (bcdDigits (s.reg x)) p).advance p.pcQuirk) p

/-- R154, `Fx55` LD [I], Vx. -/
def execStoreRegs (x : Reg) (s : State) (p : Params := hardware) : Out :=
  s.checked .store (s.ea x.val) ((s.writeBytes (s.ea 0) (s.regBlock x) p).advance p.pcQuirk) p

/-- R155, `Fx65` LD Vx, [I]. -/
def execLoadRegs (x : Reg) (s : State) (p : Params := hardware) : Out :=
  s.checked .load (s.ea x.val) ((s.loadBlock x (s.ea 0) p).advance p.pcQuirk) p

end Sys2Proof.Machine
end

