-- ==== Sys2Proof/Machine/LoadAlu.lean ====
section
/-! DEFINITION. Register load, arithmetic, logic, shift, random (spec/43_load_alu.md). All results wrap modulo 256 (R142);
none of these instructions can fault. -/

namespace Sys2Proof.Machine

/-- R130, `6xkk` LD Vx, kk. -/
def execLdImm (x : Reg) (kk : Byte) (s : State) (p : Params := hardware) : Out :=
  .next ((s.setReg x kk).advance p.pcQuirk)

/-- R131, `7xkk` ADD Vx, kk: no flag. -/
def execAddImm (x : Reg) (kk : Byte) (s : State) (p : Params := hardware) : Out :=
  .next ((s.setReg x (s.reg x + kk)).advance p.pcQuirk)

/-- R132, `8xy0` LD Vx, Vy. -/
def execLdReg (x y : Reg) (s : State) (p : Params := hardware) : Out :=
  .next ((s.setReg x (s.reg y)).advance p.pcQuirk)

/-- R133, `8xy1` OR Vx, Vy: VF is not written. -/
def execOrReg (x y : Reg) (s : State) (p : Params := hardware) : Out :=
  .next ((s.setReg x (s.reg x ||| s.reg y)).advance p.pcQuirk)

/-- R134, `8xy2` AND Vx, Vy: VF is not written. -/
def execAndReg (x y : Reg) (s : State) (p : Params := hardware) : Out :=
  .next ((s.setReg x (s.reg x &&& s.reg y)).advance p.pcQuirk)

/-- R135, `8xy3` XOR Vx, Vy: VF is not written. -/
def execXorReg (x y : Reg) (s : State) (p : Params := hardware) : Out :=
  .next ((s.setReg x (s.reg x ^^^ s.reg y)).advance p.pcQuirk)

/-- R136, `8xy4` ADD Vx, Vy: VF := carry, then Vx. -/
def execAddReg (x y : Reg) (s : State) (p : Params := hardware) : Out :=
  .next ((s.setFlagThenReg (carryOut (s.reg x) (s.reg y)) x (s.reg x + s.reg y)).advance p.pcQuirk)

/-- R137, `8xy5` SUB Vx, Vy: VF := Vx > Vy, then Vx. -/
def execSubReg (x y : Reg) (s : State) (p : Params := hardware) : Out :=
  .next ((s.setFlagThenReg (strictlyGreater (s.reg x) (s.reg y)) x (s.reg x - s.reg y)).advance p.pcQuirk)

/-- R138, `8xy6` SHR Vx: the source is Vx for every `y`. -/
def execShr (x _y : Reg) (s : State) (p : Params := hardware) : Out :=
  .next ((s.setFlagThenReg (shiftedOutLow (s.reg x)) x (s.reg x >>> 1)).advance p.pcQuirk)

/-- R139, `8xy7` SUBN Vx, Vy: VF := Vy > Vx, then Vx. -/
def execSubnReg (x y : Reg) (s : State) (p : Params := hardware) : Out :=
  .next ((s.setFlagThenReg (strictlyGreater (s.reg y) (s.reg x)) x (s.reg y - s.reg x)).advance p.pcQuirk)

/-- R140, `8xyE` SHL Vx: the source is Vx for every `y`. -/
def execShl (x _y : Reg) (s : State) (p : Params := hardware) : Out :=
  .next ((s.setFlagThenReg (shiftedOutHigh (s.reg x)) x (s.reg x <<< 1)).advance p.pcQuirk)

/-- R141, `Cxkk` RND Vx, kk: the random byte is drawn once. -/
def execRnd (x : Reg) (kk : Byte) (s : State) (p : Params := hardware) : Out :=
  .next ((s.randomDrawn.setReg x (s.randomByte &&& kk)).advance p.pcQuirk)

end Sys2Proof.Machine
end

