-- ==== Sys2Proof/Machine/Timers.lean ====
section
/-! DEFINITION. The delay and sound timers (spec/45_timers.md): three instructions and the host's `timerTick`. There is no
sound output (R170). -/

namespace Sys2Proof.Machine

/-- R165, `Fx07` LD Vx, DT. -/
def execLdVxDt (x : Reg) (s : State) (p : Params := hardware) : Out := .next ((s.setReg x s.dt).advance p.pcQuirk)

/-- R166, `Fx15` LD DT, Vx. -/
def execLdDtVx (x : Reg) (s : State) (p : Params := hardware) : Out :=
  .next ({ s with dt := s.reg x }.advance p.pcQuirk)

/-- R167, `Fx18` LD ST, Vx. -/
def execLdStVx (x : Reg) (s : State) (p : Params := hardware) : Out :=
  .next ({ s with st := s.reg x }.advance p.pcQuirk)

/-- A timer less one, 0 staying 0 (R168). -/
def countDown (b : Byte) : Byte := if b = 0 then 0 else b - 1

/-- R168: `timerTick()`, a host operation. -/
def State.timerTick (s : State) : State := { s with dt := countDown s.dt, st := countDown s.st }

end Sys2Proof.Machine
end

