-- ==== Sys2Proof/Machine/Tick.lean ====
section
/-! DEFINITION. One tick (spec/41_executor_tick.md rules R100, R101, R105): fetch, decode, execute. -/

namespace Sys2Proof.Machine

/-- The two-byte window at the pc is inside memory (R101). -/
def State.fetchable (s : State) (p : Params := hardware) : Bool := decide (s.pc.toNat + 1 < p.memSize)

/-- R51: the word at the pc, its first byte the high one. -/
def State.fetchWord (s : State) (p : Params := hardware) : Word :=
  wordOfBytes (s.readByte s.pc.toNat p) (s.readByte (s.pc.toNat + 1) p)

/-- R100, with the executor given: an Unimplemented word is a logged no-op (R105). -/
def tickWith (ex : Instr → State → Out) (s : State) (p : Params := hardware) : Out :=
  if s.fetchable p then
    match decodeWord (s.fetchWord p) with
    | .ok i => ex i s
    | .error _ => .next (s.unimplemented (s.fetchWord p) p)
  else s.memoryFault .fetch s.pc.toNat

/-- R100: `tick()`. -/
def tick (s : State) : Out := tickWith exec s

end Sys2Proof.Machine
end

