-- ==== Sys2Proof/Machine/HostInterface.lean ====
section
/-! DEFINITION. The host's operations on the core (spec/60_exceptions.md rule R212; spec/70_reset_and_hazards.md rules
R220, R221), and what a `tick` call hands back (spec/10_state.md rule R31). -/

namespace Sys2Proof.Machine

/-- R220: reset between ticks. The inputs the host will still present are the host's and stay (log 27). -/
def State.resetAgain (s : State) (p : Params := hardware) : State :=
  { State.resetFor p with
    keyTape := s.keyTape, keySamples := s.keySamples, rndTape := s.rndTape, rndDraws := s.rndDraws, hostOps := s.hostOps }

/-- R221: `loadProgram(bytes)`: all of it or nothing, memory only; the rule's 0x200 is R5's `PROG_BASE` (log 32). -/
def loadProgram (bytes : List Byte) (s : State) (p : Params := hardware) : Out :=
  if p.memSize < bytes.length + p.progBase then .fault .loadTooLarge
  else .next (s.writeBytes p.progBase bytes p)

/-- One operation of the host (R212), with the executor given. -/
def hostOpWith (ex : Instr → State → Out) (op : HostOp) (s : State) (p : Params := hardware) : Out :=
  match op with
  | .reset => .next (s.resetAgain p)
  | .loadProgram bytes => loadProgram bytes s p
  | .timerTick => .next s.timerTick
  | .tick => tickWith ex s p

/-- R169, R212: the host's next operation, with the executor given; with none scheduled it ticks (log 13). -/
def hostStepWith (ex : Instr → State → Out) (s : State) (p : Params := hardware) : Out :=
  match s.hostOps with
  | [] => tickWith ex s p
  | op :: rest => hostOpWith ex op { s with hostOps := rest } p

/-- One operation of this hardware's host. -/
def hostOp (op : HostOp) (s : State) : Out := hostOpWith exec op s

/-- The next operation of this hardware's host. -/
def hostStep (s : State) : Out := hostStepWith exec s

/-- R31, R200: the code on `fault[1:0]` (D13). A tick raises neither of the codes' other causes (R203). -/
def faultCode : Out → BitVec 2
  | .fault (.stackFault _ _) => 1
  | .fault (.memoryFault _ _ _) => 2
  | .fault .loadTooLarge => 0
  | .next _ => 0
  | .refused _ => 0

/-- R31, R215: the record a tick emits, exactly when the fetched word is Unimplemented. -/
def State.tickDiag (s : State) (p : Params := hardware) : Option DiagRecord :=
  match s.fetchable p, decodeWord (s.fetchWord p) with
  | true, .error _ => some ⟨s.fetchWord p, s.pc⟩
  | _, _ => none

/-- R106, R206, R207: the state a `tick` call leaves, which after a fault is the state it found. -/
def State.afterTick (s : State) : State :=
  match tick s with
  | .next t => t
  | .fault _ => s
  | .refused _ => s

end Sys2Proof.Machine
end

