-- ==== Sys2Proof/Machine/Step.lean ====
section
/-! DEFINITION. The step of the machine: the host's next operation, a tick unless State's schedule says otherwise
(spec/60_exceptions.md rule R212; log 13). -/

namespace Sys2Proof.Machine

/-- One step. -/
def step (s : State) : Host.Outcome State Fault Refusal := hostStep s

/-- `s` with the instruction word of a table row stored where the next step fetches it, high byte first (R51): at the
pc, or at `PROG_BASE` when the pc's window is outside memory, and with no host operation before the tick (log 21). -/
def State.withFetchWord (s : State) (nbits w : Nat) : State :=
  let word : Word := BitVec.ofNat 16 (w % 2 ^ nbits)
  let pc : Word := if s.fetchable then s.pc else BitVec.ofNat 16 Config.progBase
  { s with pc := pc, hostOps := [] }.writeBytes pc.toNat [highByte word, lowByte word]

end Sys2Proof.Machine
end

