-- ==== Sys2Proof/Machine/Parametric.lean ====
section
/-! DEFINITION. The machine under any configuration (spec/00_scope.md rule R5, spec/10_state.md rule R32;
spec/92_eei_decisions.md D1, D2, D4), and under either setting of `PC_QUIRK` alone (spec/41_executor_tick.md rules R102,
R103; log 1). `exec`, `tick` and `step` are this machine at `hardware`. -/

namespace Sys2Proof.Machine

/-- `exec` under the configuration `p`. -/
def execFor (p : Params) (i : Instr) (s : State) : Out :=
  match i with
  | .cls => execCls s p
  | .ret => execRet s p
  | .jp nnn => execJp nnn s p
  | .call nnn => execCall nnn s p
  | .seImm x kk => execSeImm x kk s p
  | .sneImm x kk => execSneImm x kk s p
  | .seReg x y => execSeReg x y s p
  | .ldImm x kk => execLdImm x kk s p
  | .addImm x kk => execAddImm x kk s p
  | .ldReg x y => execLdReg x y s p
  | .orReg x y => execOrReg x y s p
  | .andReg x y => execAndReg x y s p
  | .xorReg x y => execXorReg x y s p
  | .addReg x y => execAddReg x y s p
  | .subReg x y => execSubReg x y s p
  | .shr x y => execShr x y s p
  | .subnReg x y => execSubnReg x y s p
  | .shl x y => execShl x y s p
  | .sneReg x y => execSneReg x y s p
  | .ldI nnn => execLdI nnn s p
  | .jpV0 nnn => execJpV0 nnn s p
  | .rnd x kk => execRnd x kk s p
  | .drw x y n => execDrw x y n s p
  | .skp x => execSkp x s p
  | .sknp x => execSknp x s p
  | .ldVxDt x => execLdVxDt x s p
  | .ldDtVx x => execLdDtVx x s p
  | .ldStVx x => execLdStVx x s p
  | .addI x => execAddI x s p
  | .ldF x => execLdF x s p
  | .ldB x => execLdB x s p
  | .storeRegs x => execStoreRegs x s p
  | .loadRegs x => execLoadRegs x s p

/-- `tick` under the configuration `p`. -/
def tickFor (p : Params) (s : State) : Out := tickWith (execFor p) s p

/-- `step` under the configuration `p`. -/
def stepFor (p : Params) (s : State) : Out := hostStepWith (execFor p) s p

/-- This hardware but for `PC_QUIRK`. -/
def hardwareWithQuirk (q : Bool) : Params := { hardware with pcQuirk := q }

/-- `exec` with `PC_QUIRK = q`. -/
def execUnder (q : Bool) (i : Instr) (s : State) : Out := execFor (hardwareWithQuirk q) i s

/-- `tick` with `PC_QUIRK = q`. -/
def tickUnder (q : Bool) (s : State) : Out := tickFor (hardwareWithQuirk q) s

end Sys2Proof.Machine
end

