-- ==== Sys2Proof/Machine/Scaler.lean ====
section
/-! DEFINITION. The host's two read-only operations: `displaySnapshot` (spec/46_display.md rule R178) and the Output Scaler
(spec/47_scaler.md). Pure functions: they change no state (R189). -/

namespace Sys2Proof.Machine

/-- R178: `displaySnapshot()`, row-major, one byte 0 or 1 a cell (D14; log 15). -/
def State.displaySnapshot (s : State) (p : Params := hardware) : List Byte :=
  (List.range p.lh).flatMap fun y =>
    (List.range p.lw).map fun x => if Display.cell s.display x y p then 1 else 0

/-- The logical buffer of R185: its dimensions and its cells in row-major order, a cell being on when nonzero. -/
structure LogicalBuffer where
  width : Nat
  height : Nat
  cells : List Byte
  deriving DecidableEq, Repr

/-- Whether the cell in column `cx` and row `cy` is on (R185); a cell the list lacks is off (log 16). -/
def LogicalBuffer.on (l : LogicalBuffer) (cx cy : Nat) : Bool := l.cells.getD (cy * l.width + cx) 0 != 0

/-- What a scaler call answers (R185, R186). -/
inductive ScaleResult where
  /-- the pixel buffer `P` -/
  | pixels (bytes : List Byte)
  /-- R186, R204 -/
  | invalidScale
  /-- `STRIDE = 0`: R185 excludes the case and U20 asks a model to refuse it (log 16). -/
  | strideRefused
  deriving DecidableEq, Repr

/-- R188: the intensity of output pixel `(px, py)`, 255 when its cell is on and 0 otherwise. -/
def pixelValue (l : LogicalBuffer) (sx sy px py : Nat) : Byte := if l.on (px / sx) (py / sy) then 255 else 0

/-- R187, R188: the pixels row by row, top row first, each `stride` equal bytes. -/
def pixelBytes (l : LogicalBuffer) (sx sy outW outH stride : Nat) : List Byte :=
  (List.range outH).flatMap fun py =>
    (List.range outW).flatMap fun px => List.replicate stride (pixelValue l sx sy px py)

/-- R185 to R188: `scale(L, OUT_W, OUT_H, STRIDE)`. -/
def scale (l : LogicalBuffer) (outW outH stride : Nat) : ScaleResult :=
  if stride = 0 then .strideRefused
  else if outW = 0 ∨ outW % l.width ≠ 0 then .invalidScale
  else if outH = 0 ∨ outH % l.height ≠ 0 then .invalidScale
  else .pixels (pixelBytes l (outW / l.width) (outH / l.height) outW outH stride)

/-- The Display Buffer as the scaler's input (R185). -/
def State.logicalBuffer (s : State) (p : Params := hardware) : LogicalBuffer := ⟨p.lw, p.lh, s.displaySnapshot p⟩

/-- R212: `scaleToPresentationBuffer(resolution)`. -/
def State.scaleToPresentationBuffer (s : State) (outW outH stride : Nat) (p : Params := hardware) : ScaleResult :=
  scale (s.logicalBuffer p) outW outH stride

end Sys2Proof.Machine
end

