-- ==== Sys2Proof/Safety.lean ====
section
/-! DEFINITION. The terms claims are stated in: what counts as a safe run and where a run ends
(spec/70_reset_and_hazards.md rule R222, the spec's decision D25; log 25), the invariant of spec/10_state.md rule R33
with the bounds of rules R26 and R27, and what it means that a part of the state is unchanged. -/

namespace Sys2Proof.Machine

/-! ## Runs -/

/-- The first `k` steps from `s` raise no fault. -/
def SafeFor (k : Nat) (s : State) : Prop := ∃ t : State, Host.Core.run Sys2Proof.core k s = .next t

/-- R222 (a): the next step faults. -/
def Faults (s : State) : Prop := ∃ f, step s = .fault f

/-- R222 (b), for either setting of `PC_QUIRK`: the pc holds the address of a `1nnn` whose final pc is that address. -/
def SelfJump (q : Bool) (s : State) : Prop :=
  s.fetchable = true ∧ ∃ nnn, decodeWord s.fetchWord = .ok (.jp nnn) ∧ pcOfAddr nnn + postAdd q = s.pc

/-! ## The invariant -/

/-- What every step keeps: memory and display in their canonical forms, so every display cell on the grid (R29), the pc at
most 0x10FE, or 0x1100 with `PC_QUIRK` true (R26), SP within the slots (R25, R27), every stack slot at most `MEM_SIZE` and
`stack[0]` never written (R27). -/
structure Inv (s : State) (p : Params := hardware) : Prop where
  memCanonical : s.mem.wf p = true
  displayCanonical : Display.wf s.display p = true
  pcBound : s.pc.toNat ≤ 0x10FE + (postAdd p.pcQuirk).toNat
  spBound : s.sp.toNat < p.stackSlots
  slotBound : ∀ k : StackPtr, (s.slot k).toNat ≤ p.memSize
  slotZero : s.slot 0 = 0

/-! ## What is unchanged -/

/-- The parts of the state beside the pc: R34's elements, and the model's own inputs and outputs. -/
inductive Part where
  | regs
  | index
  | delayTimer
  | soundTimer
  | stackPointer
  | callStack
  | memory
  | display
  | diagnostics
  | keyInput
  | randomInput
  | hostSchedule
  deriving DecidableEq, Repr

/-- The part is the same in both states, read the way the machine reads it. -/
def Part.same (part : Part) (s t : State) (p : Params := hardware) : Prop :=
  match part with
  | .regs => ∀ x, t.reg x = s.reg x
  | .index => t.i = s.i
  | .delayTimer => t.dt = s.dt
  | .soundTimer => t.st = s.st
  | .stackPointer => t.sp = s.sp
  | .callStack => ∀ k, t.slot k = s.slot k
  | .memory => ∀ a, t.readByte a p = s.readByte a p
  | .display => ∀ x y, Display.cell t.display x y p = Display.cell s.display x y p
  | .diagnostics => t.diagLog = s.diagLog
  | .keyInput => t.keyTape = s.keyTape ∧ t.keySamples = s.keySamples
  | .randomInput => t.rndTape = s.rndTape ∧ t.rndDraws = s.rndDraws
  | .hostSchedule => t.hostOps = s.hostOps

/-- Every part but the named ones is the same; nothing is said of the pc. -/
def SameBut (changed : List Part) (s t : State) (p : Params := hardware) : Prop :=
  ∀ part : Part, part ∉ changed → part.same s t p

/-- Every V register but the named ones is the same. -/
def RegsSameBut (changed : List Reg) (s t : State) : Prop := ∀ k : Reg, k ∉ changed → t.reg k = s.reg k

/-- The 16-bit word of value `n` decodes to the instruction. -/
def HasWord (i : Instr) (n : Nat) : Prop := n < 65536 ∧ decodeWord (BitVec.ofNat 16 n) = .ok i

/-- The six skip instructions (R120). -/
def isSkip : Instr → Bool
  | .seImm _ _ | .sneImm _ _ | .seReg _ _ | .sneReg _ _ | .skp _ | .sknp _ => true
  | _ => false

/-- The four instructions that assign the pc (R103). -/
def isTransfer : Instr → Bool
  | .ret | .jp _ | .call _ | .jpV0 _ => true
  | _ => false

/-- The instructions that write VF as the flag (R21). -/
def writesFlag : Instr → Bool
  | .addReg _ _ | .subReg _ _ | .shr _ _ | .subnReg _ _ | .shl _ _ | .drw _ _ _ => true
  | _ => false

/-- The highest register an instruction writes as an ordinary destination, if it has one (R21, R34). -/
def destReg : Instr → Option Reg
  | .ldImm x _ | .addImm x _ | .rnd x _ | .ldVxDt x | .loadRegs x => some x
  | .ldReg x _ | .orReg x _ | .andReg x _ | .xorReg x _ => some x
  | .addReg x _ | .subReg x _ | .shr x _ | .subnReg x _ | .shl x _ => some x
  | _ => none

/-- How far right of a sprite's left edge `vx` the column `cx` lies, going round the display (R177). -/
def spriteColumn (vx cx : Nat) (p : Params := hardware) : Nat := (cx + (p.lw - vx % p.lw)) % p.lw

/-- How far below a sprite's top edge `vy` the row `cy` lies, going round the display (R177). -/
def spriteRow (vy cy : Nat) (p : Params := hardware) : Nat := (cy + (p.lh - vy % p.lh)) % p.lh

/-- The bit a sprite of `n` bytes from `a`, drawn at `(vx, vy)`, puts on cell `(cx, cy)`: bit `7 - column` of byte `row`
when the cell lies within the eight columns and `n` rows of the sprite, else 0 (R176). -/
def spriteBit (m : Memory) (a vx vy n cx cy : Nat) (p : Params := hardware) : Bool :=
  decide (spriteColumn vx cx p < 8) && decide (spriteRow vy cy p < n) &&
    (m.read (a + spriteRow vy cy p) p).getLsbD (7 - spriteColumn vx cx p)

/-- The two states differ at most in what no instruction reads: ST (R24), the diagnostic records (R215) and `stack[0]`
(R27). -/
def DifferInUnread (s s' : State) : Prop :=
  ∃ (b : Byte) (l : List DiagRecord) (w : Word), s' = { s with st := b, diagLog := l }.setSlot 0 w

end Sys2Proof.Machine
end

