-- ==== Sys2Proof/Certificates/Slice0/Obligations.lean ====
section
/-! DEFINITION. The statements for the provers. A statement about an instruction names its word (`HasWord`), its next
state, and what it leaves unchanged (`SameBut`, `RegsSameBut`). Rules that rest on one of the spec's own decisions
(D<n>) are named as such. -/

open Sys2Proof Sys2Proof.Machine

/-! ## The decoder -/

/-- R90, R91 (c): the six fields of a word and how they determine it. -/
def Obligations.DecoderFieldsAreTheWordsBits : Prop :=
  ∀ w : Word,
    (Opcode.ofWord w).address.toNat = w.toNat / 4096 ∧ (Opcode.ofWord w).x.toNat = w.toNat / 256 % 16 ∧
    (Opcode.ofWord w).y.toNat = w.toNat / 16 % 16 ∧ (Opcode.ofWord w).n.toNat = w.toNat % 16 ∧
    (Opcode.ofWord w).kk.toNat = w.toNat % 256 ∧ (Opcode.ofWord w).nnn.toNat = w.toNat % 4096 ∧
    (Opcode.ofWord w).kk.toNat = (Opcode.ofWord w).y.toNat * 16 + (Opcode.ofWord w).n.toNat ∧
    (Opcode.ofWord w).nnn.toNat = (Opcode.ofWord w).x.toNat * 256 + (Opcode.ofWord w).kk.toNat ∧
    w.toNat = (Opcode.ofWord w).address.toNat * 4096 + (Opcode.ofWord w).nnn.toNat

/-- R94: sample words of several families decode as its table says. -/
def Obligations.SampleWordsDecode : Prop :=
  HasWord (.drw 1 2 3) 0xD123 ∧ HasWord .cls 0x00E0 ∧ HasWord .ret 0x00EE ∧ HasWord (.addReg 0xA 0xB) 0x8AB4 ∧
  HasWord (.skp 1) 0xE19E ∧ HasWord (.loadRegs 3) 0xF365 ∧ decodeWord 0x01E0 = .error .class0 ∧
  decodeWord 0x8AB8 = .error .class8 ∧ decodeWord 0x5121 = .error .class5 ∧ decodeWord 0xF30A = .error .classF

/-- R74, R92 (strict masks: D7, log 7): decoding the word of a well-formed instruction gives it back, at every operand
value. -/
def Obligations.DecodeInvertsEncode : Prop :=
  ∀ i : Instr, i.wellFormed = true → decodeWord (encode i) = .ok i

/-- R74, R92 (strict masks: D7, log 7): a word that decodes is the word of the instruction it decodes to, so each word
has one meaning. -/
def Obligations.EncodeInvertsDecode : Prop :=
  ∀ (w : Word) (i : Instr), decodeWord w = .ok i → i.wellFormed = true ∧ encode i = w

/-- R74, R92 (strict masks: D7, log 7): `Classify` agrees with the mask and match columns on every word, and the rows
are pairwise disjoint. -/
def Obligations.DecoderAgreesWithOpcodeMap : Prop :=
  (∀ (w : Word) (i : Instr), decodeWord w = .ok i → i.row ∈ opcodeTable ∧ i.row.matchesWord w = true) ∧
  (∀ (w : Word) (r : OpcodeRow), r ∈ opcodeTable → r.matchesWord w = true →
    ∃ i, decodeWord w = .ok i ∧ i.row = r) ∧
  (∀ r₁ ∈ opcodeTable, ∀ r₂ ∈ opcodeTable, ∀ w : Word, r₁.matchesWord w = true → r₂.matchesWord w = true → r₁ = r₂)

/-- R76: the Unimplemented words are exactly those of the six conditions (strict sub-cases: D7, log 7). -/
def Obligations.UnimplementedWordsAreExactlyTheListedClasses : Prop :=
  ∀ w : Word,
    (∃ e, decodeWord w = .error e) ↔
      (w.toNat / 4096 = 0x0 ∧ w.toNat ≠ 0x00E0 ∧ w.toNat ≠ 0x00EE) ∨
      (w.toNat / 4096 = 0x5 ∧ w.toNat % 16 ≠ 0) ∨
      (w.toNat / 4096 = 0x8 ∧ w.toNat % 16 ∈ [0x8, 0x9, 0xA, 0xB, 0xC, 0xD, 0xF]) ∨
      (w.toNat / 4096 = 0x9 ∧ w.toNat % 16 ≠ 0) ∨
      (w.toNat / 4096 = 0xE ∧ w.toNat % 256 ∉ [0x9E, 0xA1]) ∨
      (w.toNat / 4096 = 0xF ∧ w.toNat % 256 ∉ [0x07, 0x15, 0x18, 0x1E, 0x29, 0x33, 0x55, 0x65])

/-! ## The tick -/

/-- R100: a step whose next host operation is a tick runs the decoded instruction at the pc, and adds nothing to it
but taking the operation off the schedule (with nothing scheduled the next operation is a tick: log 13). -/
def Obligations.StepRunsTheDecodedInstruction : Prop :=
  ∀ (s : State) (i : Instr), s.pc.toNat + 1 < Config.memSize →
    decodeBytes [s.readByte s.pc.toNat, s.readByte (s.pc.toNat + 1)] = .ok (i, []) →
    (s.hostOps = [] → step s = exec i s) ∧
    (∀ rest, s.hostOps = .tick :: rest → step s = exec i { s with hostOps := rest })

/-- R51: the fetched word is big-endian. -/
def Obligations.FetchIsBigEndian : Prop :=
  ∀ s : State,
    s.fetchWord.toNat = (s.readByte s.pc.toNat).toNat * 256 + (s.readByte (s.pc.toNat + 1)).toNat ∧
    (Opcode.ofWord s.fetchWord).address.toNat = (s.readByte s.pc.toNat).toNat / 16 ∧
    (Opcode.ofWord s.fetchWord).x.toNat = (s.readByte s.pc.toNat).toNat % 16 ∧
    (Opcode.ofWord s.fetchWord).y.toNat = (s.readByte (s.pc.toNat + 1)).toNat / 16 ∧
    (Opcode.ofWord s.fetchWord).n.toNat = (s.readByte (s.pc.toNat + 1)).toNat % 16 ∧
    (Opcode.ofWord s.fetchWord).kk = s.readByte (s.pc.toNat + 1)

/-- R101: a tick faults at fetch exactly when the two-byte window is not inside memory; the window never wraps. That
the fetch faults, not the earlier write of the pc, is D12 (log 12). -/
def Obligations.FetchFaultsExactlyOutsideMemory : Prop :=
  ∀ (s : State) (a : Nat) (ia : Word),
    tick s = .fault (.memoryFault .fetch a ia) ↔ (Config.memSize ≤ s.pc.toNat + 1 ∧ a = s.pc.toNat ∧ ia = s.pc)

/-- R105: an Unimplemented word emits one record, advances the pc by 2 under both settings of `PC_QUIRK`, and changes
nothing else. That a step with nothing scheduled is a tick and that the records are kept as a list in State are the
model's choices (logs 13, 14); what a record holds is D24. -/
def Obligations.UnimplementedWordIsALoggedNoOp : Prop :=
  ∀ (s : State) (e : DecodeReject), s.hostOps = [] → s.pc.toNat + 1 < Config.memSize →
    decodeWord s.fetchWord = .error e →
    ∃ t, step s = .next t ∧ (∀ q, tickUnder q s = .next t) ∧ t.pc = s.pc + 2 ∧
      t.diagLog = s.diagLog ++ [⟨s.fetchWord, s.pc⟩] ∧ SameBut [.diagnostics] s t

/-- R107, R201, R202: which instructions fault, when, and with which fault; no instruction is refused. -/
def Obligations.InstructionsFaultExactlyWhenListed : Prop :=
  (∀ (i : Instr) (s : State) (f : Fault), exec i s = .fault f ↔
    (i = .ret ∧ s.sp = 0 ∧ f = .stackFault .ret s.pc) ∨
    (∃ nnn, i = .call nnn ∧ s.sp = 15 ∧ f = .stackFault .call s.pc) ∨
    (∃ x, i = .addI x ∧ Config.memSize ≤ s.i.toNat + (s.reg x).toNat ∧
      f = .memoryFault .index (s.i.toNat + (s.reg x).toNat) s.pc) ∨
    (∃ x, i = .ldB x ∧ Config.memSize ≤ s.i.toNat + 2 ∧ f = .memoryFault .store (s.i.toNat + 2) s.pc) ∨
    (∃ x, i = .storeRegs x ∧ Config.memSize ≤ s.i.toNat + x.val ∧ f = .memoryFault .store (s.i.toNat + x.val) s.pc) ∨
    (∃ x, i = .loadRegs x ∧ Config.memSize ≤ s.i.toNat + x.val ∧ f = .memoryFault .load (s.i.toNat + x.val) s.pc) ∨
    (∃ x y n, i = .drw x y n ∧ 1 ≤ n ∧ Config.memSize ≤ s.i.toNat + n - 1 ∧
      f = .memoryFault .load (s.i.toNat + n - 1) s.pc)) ∧
  (∀ (i : Instr) (s : State) (r : Refusal), exec i s ≠ .refused r) ∧
  (∀ (s : State) (f : Fault), tick s = .fault f ↔
    (Config.memSize ≤ s.pc.toNat + 1 ∧ f = .memoryFault .fetch s.pc.toNat s.pc) ∨
    (s.pc.toNat + 1 < Config.memSize ∧ ∃ i, decodeWord s.fetchWord = .ok i ∧ exec i s = .fault f))

/-- R108 for a tick, R212 for the host's other operations: every step answers a next state or a fault; none is refused.
That a step is the head of the host's schedule, or a tick when there is none (log 13), and that a failed load is a fault of
the step and not a refusal (log 22), are the model's choices. -/
def Obligations.NoStepIsRefused : Prop :=
  ∀ (s : State) (r : Refusal), step s ≠ .refused r

/-- R106, R207, R31: a faulting tick leaves the state it found, emits no record, has its code on `fault`, and the next
tick faults again in the same way; an unfaulting one has code 0. The codes and the absence of a record are D13, the
unchanged state after a `MemoryFault` is D11 (log 11). -/
def Obligations.FaultingTickChangesNothingAndRepeats : Prop :=
  (∀ (s : State) (f : Fault), tick s = .fault f →
    s.afterTick = s ∧ s.tickDiag = none ∧ tick s.afterTick = .fault f ∧
    ((∃ op ia, f = .stackFault op ia ∧ faultCode (tick s) = 1) ∨
      (∃ acc a ia, f = .memoryFault acc a ia ∧ faultCode (tick s) = 2))) ∧
  (∀ s t : State, tick s = .next t →
    faultCode (tick s) = 0 ∧ t.diagLog = s.diagLog ++ s.tickDiag.toList)

/-- R103: the final pc of every instruction that answers a next state, under either setting of `PC_QUIRK`; `exec` is the
setting false (D1, log 1). -/
def Obligations.FinalPcFollowsThePcRule : Prop :=
  (∀ (q : Bool) (s : State) (taken : Bool), (s.advance q).pc = s.pc + 2 ∧
    (s.skipIf taken q).pc = if taken then s.pc + 4 else s.pc + 2) ∧
  (∀ (i : Instr) (s : State), execUnder false i s = exec i s) ∧
  (∀ (q : Bool) (i : Instr) (s t : State), execUnder q i s = .next t →
    (∀ nnn, i = .jp nnn → t.pc.toNat = nnn.toNat + if q then 2 else 0) ∧
    (∀ nnn, i = .jpV0 nnn → t.pc.toNat = nnn.toNat + (s.reg 0).toNat + if q then 2 else 0) ∧
    (∀ nnn, i = .call nnn → t.pc.toNat = (nnn.toNat + if q then 2 else 0) ∧ t.slot t.sp = if q then s.pc else s.pc + 2) ∧
    (i = .ret → t.pc = s.slot s.sp + if q then 2 else 0) ∧
    (isSkip i = true → t.pc = s.pc + 2 ∨ t.pc = s.pc + 4) ∧
    (isSkip i = false → isTransfer i = false → t.pc = s.pc + 2))

/-! ## Control transfer -/

/-- R111, R117: the jumps, under either setting of `PC_QUIRK`; `exec` is the setting false (D1,
log 1). -/
def Obligations.JumpsLandOnTheirTargets : Prop :=
  ∀ (nnn : Addr) (s : State),
    HasWord (.jp nnn) (0x1000 + nnn.toNat) ∧ HasWord (.jpV0 nnn) (0xB000 + nnn.toNat) ∧
    (∃ t, exec (.jp nnn) s = .next t ∧ t.pc.toNat = nnn.toNat ∧ SameBut [] s t) ∧
    (∃ t, exec (.jpV0 nnn) s = .next t ∧ t.pc.toNat = nnn.toNat + (s.reg 0).toNat ∧ SameBut [] s t) ∧
    (∃ t, execUnder true (.jp nnn) s = .next t ∧ t.pc.toNat = nnn.toNat + 2 ∧ SameBut [] s t) ∧
    (∃ t, execUnder true (.jpV0 nnn) s = .next t ∧ t.pc.toNat = nnn.toNat + (s.reg 0).toNat + 2 ∧ SameBut [] s t)

/-- R112: the call, under either setting of `PC_QUIRK` (`exec` is the setting false: D1, log 1), and its fault at
`SP = 15`. SP moves first, then the slot is written (spec/90_conflicts.md C1, log 30). -/
def Obligations.CallPushesThenJumps : Prop :=
  ∀ (nnn : Addr) (s : State),
    HasWord (.call nnn) (0x2000 + nnn.toNat) ∧
    (s.sp ≠ 15 →
      (∃ t, exec (.call nnn) s = .next t ∧ t.sp.toNat = s.sp.toNat + 1 ∧ t.slot t.sp = s.pc + 2 ∧
        (∀ k, k ≠ t.sp → t.slot k = s.slot k) ∧ t.pc.toNat = nnn.toNat ∧ SameBut [.stackPointer, .callStack] s t) ∧
      (∃ t, execUnder true (.call nnn) s = .next t ∧ t.sp.toNat = s.sp.toNat + 1 ∧ t.slot t.sp = s.pc ∧
        (∀ k, k ≠ t.sp → t.slot k = s.slot k) ∧ t.pc.toNat = nnn.toNat + 2 ∧
        SameBut [.stackPointer, .callStack] s t)) ∧
    (s.sp = 15 → ∀ q, execUnder q (.call nnn) s = .fault (.stackFault .call s.pc)) ∧
    (s.sp = 15 → exec (.call nnn) s = .fault (.stackFault .call s.pc))

/-- R110: the return, under either setting of `PC_QUIRK` (`exec` is the setting false: D1, log 1), and its fault at
`SP = 0`; the slot keeps its value. -/
def Obligations.ReturnPopsThenJumps : Prop :=
  HasWord .ret 0x00EE ∧
  ∀ s : State,
    (s.sp ≠ 0 →
      (∃ t, exec .ret s = .next t ∧ t.pc = s.slot s.sp ∧ t.sp.toNat + 1 = s.sp.toNat ∧ SameBut [.stackPointer] s t) ∧
      (∃ t, execUnder true .ret s = .next t ∧ t.pc = s.slot s.sp + 2 ∧ t.sp.toNat + 1 = s.sp.toNat ∧
        SameBut [.stackPointer] s t)) ∧
    (s.sp = 0 → ∀ q, execUnder q .ret s = .fault (.stackFault .ret s.pc)) ∧
    (s.sp = 0 → exec .ret s = .fault (.stackFault .ret s.pc))

/-- R103, CH8 §8: a call, anything that keeps SP and the pushed slot, and a return end at the instruction after the
call with SP as before, under both settings of `PC_QUIRK`. -/
def Obligations.CallThenReturnComesBack : Prop :=
  ∀ (q : Bool) (nnn : Addr) (s : State), s.sp ≠ 15 →
    ∃ t, execUnder q (.call nnn) s = .next t ∧
      ∀ t' : State, t'.sp = t.sp → t'.slot t.sp = t.slot t.sp →
        ∃ u, execUnder q .ret t' = .next u ∧ u.pc = s.pc + 2 ∧ u.sp = s.sp ∧ SameBut [.stackPointer] t' u

/-- R113 to R116, R120: the four skips on registers and immediates write the pc and nothing else. -/
def Obligations.RegisterSkipsCompareAndSkip : Prop :=
  ∀ (x y : Reg) (kk : Byte) (s : State),
    (HasWord (.seImm x kk) (0x3000 + x.val * 256 + kk.toNat) ∧ HasWord (.sneImm x kk) (0x4000 + x.val * 256 + kk.toNat) ∧
      HasWord (.seReg x y) (0x5000 + x.val * 256 + y.val * 16) ∧ HasWord (.sneReg x y) (0x9000 + x.val * 256 + y.val * 16)) ∧
    (∃ t, exec (.seImm x kk) s = .next t ∧ SameBut [] s t ∧
      t.pc = if (s.reg x).toNat = kk.toNat then s.pc + 4 else s.pc + 2) ∧
    (∃ t, exec (.sneImm x kk) s = .next t ∧ SameBut [] s t ∧
      t.pc = if (s.reg x).toNat = kk.toNat then s.pc + 2 else s.pc + 4) ∧
    (∃ t, exec (.seReg x y) s = .next t ∧ SameBut [] s t ∧
      t.pc = if (s.reg x).toNat = (s.reg y).toNat then s.pc + 4 else s.pc + 2) ∧
    (∃ t, exec (.sneReg x y) s = .next t ∧ SameBut [] s t ∧
      t.pc = if (s.reg x).toNat = (s.reg y).toNat then s.pc + 2 else s.pc + 4)

/-- R118, R119, R120: the two key skips test the level of key `Vx[3:0]` (D8, log 8), sampled once, whatever
the levels are (log 10). -/
def Obligations.KeySkipsSampleOnceAndSkip : Prop :=
  ∀ (x : Reg) (s : State),
    HasWord (.skp x) (0xE09E + x.val * 256) ∧ HasWord (.sknp x) (0xE0A1 + x.val * 256) ∧
    (∀ l rest, s.keyTape = l :: rest → s.keyLevels = l) ∧
    (∃ t, exec (.skp x) s = .next t ∧ SameBut [.keyInput] s t ∧
      t.keySamples = s.keySamples + 1 ∧ t.keyTape = s.keyTape.tail ∧
      t.pc = if s.keyLevels.getLsbD ((s.reg x).toNat % 16) then s.pc + 4 else s.pc + 2) ∧
    (∃ t, exec (.sknp x) s = .next t ∧ SameBut [.keyInput] s t ∧
      t.keySamples = s.keySamples + 1 ∧ t.keyTape = s.keyTape.tail ∧
      t.pc = if s.keyLevels.getLsbD ((s.reg x).toNat % 16) then s.pc + 2 else s.pc + 4)

/-! ## Load, arithmetic, logic, shift, random -/

/-- R130 to R132: the loads and the immediate add write Vx and no flag. -/
def Obligations.LoadsAndImmediateAddWriteVx : Prop :=
  ∀ (x y : Reg) (kk : Byte) (s : State),
    (HasWord (.ldImm x kk) (0x6000 + x.val * 256 + kk.toNat) ∧ HasWord (.addImm x kk) (0x7000 + x.val * 256 + kk.toNat) ∧
      HasWord (.ldReg x y) (0x8000 + x.val * 256 + y.val * 16)) ∧
    (∃ t, exec (.ldImm x kk) s = .next t ∧ t.reg x = kk ∧ RegsSameBut [x] s t ∧ SameBut [.regs] s t ∧ t.pc = s.pc + 2) ∧
    (∃ t, exec (.addImm x kk) s = .next t ∧ (t.reg x).toNat = ((s.reg x).toNat + kk.toNat) % 256 ∧
      RegsSameBut [x] s t ∧ SameBut [.regs] s t ∧ t.pc = s.pc + 2) ∧
    (∃ t, exec (.ldReg x y) s = .next t ∧ t.reg x = s.reg y ∧ RegsSameBut [x] s t ∧ SameBut [.regs] s t ∧ t.pc = s.pc + 2)

/-- R133 to R135: OR, AND and XOR act bit by bit and write Vx and no flag. -/
def Obligations.LogicActsBitwiseWithoutFlag : Prop :=
  ∀ (x y : Reg) (s : State),
    (HasWord (.orReg x y) (0x8001 + x.val * 256 + y.val * 16) ∧ HasWord (.andReg x y) (0x8002 + x.val * 256 + y.val * 16) ∧
      HasWord (.xorReg x y) (0x8003 + x.val * 256 + y.val * 16)) ∧
    (∃ t, exec (.orReg x y) s = .next t ∧ (∀ b, (t.reg x).getLsbD b = ((s.reg x).getLsbD b || (s.reg y).getLsbD b)) ∧
      RegsSameBut [x] s t ∧ SameBut [.regs] s t ∧ t.pc = s.pc + 2) ∧
    (∃ t, exec (.andReg x y) s = .next t ∧ (∀ b, (t.reg x).getLsbD b = ((s.reg x).getLsbD b && (s.reg y).getLsbD b)) ∧
      RegsSameBut [x] s t ∧ SameBut [.regs] s t ∧ t.pc = s.pc + 2) ∧
    (∃ t, exec (.xorReg x y) s = .next t ∧ (∀ b, (t.reg x).getLsbD b = ((s.reg x).getLsbD b ^^ (s.reg y).getLsbD b)) ∧
      RegsSameBut [x] s t ∧ SameBut [.regs] s t ∧ t.pc = s.pc + 2)

/-- R136, R137, R139, R143: add and the two subtractions, from the old operands also when `x` or `y` is 15; the result
stands in Vx, and VF holds the flag unless `x = 15` (the latching and the order of the writes: D6, log 6). -/
def Obligations.AddAndSubtractSetFlagThenResult : Prop :=
  ∀ (x y : Reg) (s : State),
    (HasWord (.addReg x y) (0x8004 + x.val * 256 + y.val * 16) ∧ HasWord (.subReg x y) (0x8005 + x.val * 256 + y.val * 16) ∧
      HasWord (.subnReg x y) (0x8007 + x.val * 256 + y.val * 16)) ∧
    (∃ t, exec (.addReg x y) s = .next t ∧ (t.reg x).toNat = ((s.reg x).toNat + (s.reg y).toNat) % 256 ∧
      (x ≠ 15 → t.reg 15 = if (s.reg x).toNat + (s.reg y).toNat > 255 then 1 else 0) ∧
      RegsSameBut [x, 15] s t ∧ SameBut [.regs] s t ∧ t.pc = s.pc + 2) ∧
    (∃ t, exec (.subReg x y) s = .next t ∧ (t.reg x).toNat = ((s.reg x).toNat + 256 - (s.reg y).toNat) % 256 ∧
      (x ≠ 15 → t.reg 15 = if (s.reg x).toNat > (s.reg y).toNat then 1 else 0) ∧
      RegsSameBut [x, 15] s t ∧ SameBut [.regs] s t ∧ t.pc = s.pc + 2) ∧
    (∃ t, exec (.subnReg x y) s = .next t ∧ (t.reg x).toNat = ((s.reg y).toNat + 256 - (s.reg x).toNat) % 256 ∧
      (x ≠ 15 → t.reg 15 = if (s.reg y).toNat > (s.reg x).toNat then 1 else 0) ∧
      RegsSameBut [x, 15] s t ∧ SameBut [.regs] s t ∧ t.pc = s.pc + 2)

/-- R138, R140, R143: the shifts take Vx for every `y`; VF is the bit shifted out unless `x = 15` (D6,
log 6). -/
def Obligations.ShiftsMoveVxByOne : Prop :=
  ∀ (x y : Reg) (s : State),
    (HasWord (.shr x y) (0x8006 + x.val * 256 + y.val * 16) ∧ HasWord (.shl x y) (0x800E + x.val * 256 + y.val * 16)) ∧
    (∃ t, exec (.shr x y) s = .next t ∧ (t.reg x).toNat = (s.reg x).toNat / 2 ∧
      (x ≠ 15 → (t.reg 15).toNat = (s.reg x).toNat % 2) ∧
      RegsSameBut [x, 15] s t ∧ SameBut [.regs] s t ∧ t.pc = s.pc + 2) ∧
    (∃ t, exec (.shl x y) s = .next t ∧ (t.reg x).toNat = (s.reg x).toNat * 2 % 256 ∧
      (x ≠ 15 → (t.reg 15).toNat = (s.reg x).toNat / 128) ∧
      RegsSameBut [x, 15] s t ∧ SameBut [.regs] s t ∧ t.pc = s.pc + 2)

/-- R141: the random load masks the byte the host supplies, whatever it is (no law: D10, log 9), and
draws one. -/
def Obligations.RandomLoadMasksTheInput : Prop :=
  ∀ (x : Reg) (kk : Byte) (s : State),
    HasWord (.rnd x kk) (0xC000 + x.val * 256 + kk.toNat) ∧
    (∀ r rest, s.rndTape = r :: rest → s.randomByte = r) ∧
    ∃ t, exec (.rnd x kk) s = .next t ∧
      (∀ b, (t.reg x).getLsbD b = (s.randomByte.getLsbD b && kk.getLsbD b)) ∧
      t.reg x &&& ~~~kk = 0 ∧ t.rndDraws = s.rndDraws + 1 ∧ t.rndTape = s.rndTape.tail ∧
      RegsSameBut [x] s t ∧ SameBut [.regs, .randomInput] s t ∧ t.pc = s.pc + 2

/-- R21: VF changes only by the six flag instructions or as an ordinary destination. -/
def Obligations.OnlyFlagWritersOrDestinationsChangeVf : Prop :=
  ∀ (i : Instr) (s t : State), exec i s = .next t → t.reg 15 ≠ s.reg 15 →
    writesFlag i = true ∨ destReg i = some 15

/-! ## Index and memory -/

/-- R150, R152: setting I to an address or to the address of a glyph (its place is D4, the digit's low four bits D9;
logs 4, 8). -/
def Obligations.IndexLoadsSetI : Prop :=
  ∀ (nnn : Addr) (x : Reg) (s : State),
    HasWord (.ldI nnn) (0xA000 + nnn.toNat) ∧ HasWord (.ldF x) (0xF029 + x.val * 256) ∧
    (∃ t, exec (.ldI nnn) s = .next t ∧ t.i = nnn ∧ SameBut [.index] s t ∧ t.pc = s.pc + 2) ∧
    (∃ t, exec (.ldF x) s = .next t ∧ t.i.toNat = Config.fontBase + 5 * ((s.reg x).toNat % 16) ∧
      SameBut [.index] s t ∧ t.pc = s.pc + 2)

/-- R151: adding to I, and the fault when the sum is not addressable; the sum never wraps. -/
def Obligations.IndexAddStaysAddressable : Prop :=
  ∀ (x : Reg) (s : State),
    HasWord (.addI x) (0xF01E + x.val * 256) ∧
    (s.i.toNat + (s.reg x).toNat < Config.memSize →
      ∃ t, exec (.addI x) s = .next t ∧ t.i.toNat = s.i.toNat + (s.reg x).toNat ∧ SameBut [.index] s t ∧ t.pc = s.pc + 2) ∧
    (Config.memSize ≤ s.i.toNat + (s.reg x).toNat →
      exec (.addI x) s = .fault (.memoryFault .index (s.i.toNat + (s.reg x).toNat) s.pc))

/-- R153: the BCD store writes three bytes from `State.ea s 0` on and nothing else; out of range it faults.
That I stays is D20 (log 20). -/
def Obligations.BcdStoreWritesThreeDigits : Prop :=
  ∀ (x : Reg) (s : State),
    HasWord (.ldB x) (0xF033 + x.val * 256) ∧
    (s.i.toNat + 2 < Config.memSize →
      ∃ t, exec (.ldB x) s = .next t ∧
        (t.readByte (s.ea 0)).toNat = (s.reg x).toNat / 100 ∧
        (t.readByte (s.ea 1)).toNat = (s.reg x).toNat / 10 % 10 ∧
        (t.readByte (s.ea 2)).toNat = (s.reg x).toNat % 10 ∧
        (∀ a, a < s.ea 0 ∨ s.ea 2 < a → t.readByte a = s.readByte a) ∧ SameBut [.memory] s t ∧ t.pc = s.pc + 2) ∧
    (Config.memSize ≤ s.i.toNat + 2 → exec (.ldB x) s = .fault (.memoryFault .store (s.i.toNat + 2) s.pc))

/-- R154: the block store writes V0 to Vx from `State.ea s 0` on and nothing else; out of range it
faults. That I stays is D20 (log 20). -/
def Obligations.BlockStoreWritesTheRegisters : Prop :=
  ∀ (x : Reg) (s : State),
    HasWord (.storeRegs x) (0xF055 + x.val * 256) ∧
    (s.i.toNat + x.val < Config.memSize →
      ∃ t, exec (.storeRegs x) s = .next t ∧ (∀ k : Reg, k ≤ x → t.readByte (s.ea k.val) = s.reg k) ∧
        (∀ a, a < s.ea 0 ∨ s.ea x.val < a → t.readByte a = s.readByte a) ∧ SameBut [.memory] s t ∧ t.pc = s.pc + 2) ∧
    (Config.memSize ≤ s.i.toNat + x.val → exec (.storeRegs x) s = .fault (.memoryFault .store (s.i.toNat + x.val) s.pc))

/-- R155: the block load reads V0 to Vx from `State.ea s 0` on and changes nothing else; out of range it faults.
That I stays is D20 (log 20). -/
def Obligations.BlockLoadReadsTheRegisters : Prop :=
  ∀ (x : Reg) (s : State),
    HasWord (.loadRegs x) (0xF065 + x.val * 256) ∧
    (s.i.toNat + x.val < Config.memSize →
      ∃ t, exec (.loadRegs x) s = .next t ∧
        (∀ k : Reg, t.reg k = if k ≤ x then s.readByte (s.ea k.val) else s.reg k) ∧ SameBut [.regs] s t ∧ t.pc = s.pc + 2) ∧
    (Config.memSize ≤ s.i.toNat + x.val → exec (.loadRegs x) s = .fault (.memoryFault .load (s.i.toNat + x.val) s.pc))

/-- R155, CH8 §8: a block store and, after anything that keeps I and the stored bytes, the block load with the same `x`
restore V0 to Vx. -/
def Obligations.StoreThenLoadRestoresRegisters : Prop :=
  ∀ (x : Reg) (s t t' : State), exec (.storeRegs x) s = .next t → t'.i = s.i →
    (∀ k : Reg, k ≤ x → t'.readByte (s.ea k.val) = t.readByte (s.ea k.val)) →
    ∃ u, exec (.loadRegs x) t' = .next u ∧ (∀ k : Reg, k ≤ x → u.reg k = s.reg k) ∧
      (∀ k : Reg, x < k → u.reg k = t'.reg k)

/-- R63: a store that covers the next instruction's two bytes is what the next fetch reads. -/
def Obligations.NextFetchSeesTheStore : Prop :=
  ∀ (x j k : Reg) (s t : State), exec (.storeRegs x) s = .next t → j ≤ x → k ≤ x →
    t.pc.toNat = s.ea j.val → t.pc.toNat + 1 = s.ea k.val →
    t.fetchWord.toNat = (s.reg j).toNat * 256 + (s.reg k).toNat

/-! ## Timers -/

/-- R165 to R167: the three timer instructions. -/
def Obligations.TimerInstructionsMoveTheTimers : Prop :=
  ∀ (x : Reg) (s : State),
    (HasWord (.ldVxDt x) (0xF007 + x.val * 256) ∧ HasWord (.ldDtVx x) (0xF015 + x.val * 256) ∧
      HasWord (.ldStVx x) (0xF018 + x.val * 256)) ∧
    (∃ t, exec (.ldVxDt x) s = .next t ∧ t.reg x = s.dt ∧ RegsSameBut [x] s t ∧ SameBut [.regs] s t ∧ t.pc = s.pc + 2) ∧
    (∃ t, exec (.ldDtVx x) s = .next t ∧ t.dt = s.reg x ∧ SameBut [.delayTimer] s t ∧ t.pc = s.pc + 2) ∧
    (∃ t, exec (.ldStVx x) s = .next t ∧ t.st = s.reg x ∧ SameBut [.soundTimer] s t ∧ t.pc = s.pc + 2)

/-- R168: a step that is the host's `timerTick` takes one from each nonzero timer and changes nothing else. That the host's
next operation is the head of `State.hostOps` and is taken off it is the model's choice (log 13). -/
def Obligations.TimerTickCountsBothTimersDown : Prop :=
  ∀ (s : State) (rest : List HostOp), s.hostOps = .timerTick :: rest →
    ∃ t, step s = .next t ∧ t.dt.toNat = s.dt.toNat - 1 ∧ t.st.toNat = s.st.toNat - 1 ∧ t.hostOps = rest ∧
      t.pc = s.pc ∧ SameBut [.delayTimer, .soundTimer, .hostSchedule] s t

/-- R228: from `DT = d`, `DT` reaches 0 after exactly `d` calls of `timerTick` and not before. -/
def Obligations.DelayTimerNeedsExactlyItsValue : Prop :=
  ∀ (s : State) (n : Nat), ((State.timerTick^[n]) s).dt = 0 ↔ s.dt.toNat ≤ n

/-! ## Display -/

/-- R175: the clear turns every cell off and changes nothing else. -/
def Obligations.ClearTurnsEveryCellOff : Prop :=
  HasWord .cls 0x00E0 ∧
  ∀ s : State, ∃ t, exec .cls s = .next t ∧ (∀ x y, Display.cell t.display x y = false) ∧ SameBut [.display] s t ∧
    t.pc = s.pc + 2

/-- R176: the draw XORs the wrapped sprite into the display, cell by cell, and VF tells whether a cell went from on to
off; out of range it faults and draws nothing. The row count is any the display holds, so every well-formed `n`; that
`n = 0` draws nothing and clears VF is D19 (log 19), that I stays D20 (log 20). -/
def Obligations.DrawXorsTheWrappedSprite : Prop :=
  ∀ (x y : Reg) (n : Nat) (s : State), n ≤ 15 →
    HasWord (.drw x y n) (0xD000 + x.val * 256 + y.val * 16 + n) ∧
    ((n = 0 ∨ s.i.toNat + n - 1 < Config.memSize) →
      ∃ t, exec (.drw x y n) s = .next t ∧
        (∀ cx cy, cx < 64 → cy < 32 → Display.cell t.display cx cy =
          (Display.cell s.display cx cy ^^ spriteBit s.mem (s.ea 0) (s.reg x).toNat (s.reg y).toNat n cx cy)) ∧
        ((∃ cx cy, cx < 64 ∧ cy < 32 ∧ Display.cell s.display cx cy = true ∧ Display.cell t.display cx cy = false) →
          t.reg 15 = 1) ∧
        ((¬ ∃ cx cy, cx < 64 ∧ cy < 32 ∧ Display.cell s.display cx cy = true ∧ Display.cell t.display cx cy = false) →
          t.reg 15 = 0) ∧
        RegsSameBut [15] s t ∧ SameBut [.regs, .display] s t ∧ t.pc = s.pc + 2) ∧
    (1 ≤ n ∧ Config.memSize ≤ s.i.toNat + n - 1 →
      exec (.drw x y n) s = .fault (.memoryFault .load (s.i.toNat + n - 1) s.pc))

/-- R176, CH8 §8: the same sprite drawn twice at the same place restores the display, and the second draw reports a
collision exactly when the first turned a cell on. -/
def Obligations.DrawingTwiceRestoresTheDisplay : Prop :=
  ∀ (x y : Reg) (n : Nat) (s t t' : State), n ≤ 15 → exec (.drw x y n) s = .next t →
    t'.display = t.display → t'.i = s.i → t'.reg x = s.reg x → t'.reg y = s.reg y →
    (∀ k, k < n → t'.readByte (s.ea k) = s.readByte (s.ea k)) →
    ∃ u, exec (.drw x y n) t' = .next u ∧
      (∀ cx cy, Display.cell u.display cx cy = Display.cell s.display cx cy) ∧
      (u.reg 15 = 1 ↔ ∃ cx cy, Display.cell s.display cx cy = false ∧ Display.cell t.display cx cy = true)

/-- R178: the snapshot is 2048 bytes, row-major, 1 for a cell that is on and 0 for one that is off (D14,
log 15). -/
def Obligations.SnapshotIsRowMajor : Prop :=
  ∀ s : State, s.displaySnapshot.length = 2048 ∧
    ∀ x y, x < 64 → y < 32 →
      s.displaySnapshot[y * 64 + x]? = some (if Display.cell s.display x y then 1 else 0)

/-! ## The Output Scaler -/

/-- R186: `InvalidScale` exactly when an output dimension is not a positive multiple of the logical one. -/
def Obligations.ScalerRejectsNonMultiples : Prop :=
  ∀ (l : LogicalBuffer) (w h stride : Nat), 1 ≤ l.width → 1 ≤ l.height → 1 ≤ stride →
    (scale l w h stride = .invalidScale ↔
      ¬ ((∃ sx, 1 ≤ sx ∧ w = sx * l.width) ∧ (∃ sy, 1 ≤ sy ∧ h = sy * l.height)))

/-- R187, R188: the pixel buffer's length, and every byte of it: 255 in the block of a cell that is on, else 0 (the
order of the pixels is D15, log 16). -/
def Obligations.ScalerFillsBlocksOfPixels : Prop :=
  ∀ (l : LogicalBuffer) (sx sy stride : Nat), 1 ≤ l.width → 1 ≤ l.height → 1 ≤ stride → 1 ≤ sx → 1 ≤ sy →
    ∃ p, scale l (sx * l.width) (sy * l.height) stride = .pixels p ∧
      p.length = (sx * l.width) * (sy * l.height) * stride ∧
      ∀ cx cy px py b, cx < l.width → cy < l.height → cx * sx ≤ px → px < (cx + 1) * sx →
        cy * sy ≤ py → py < (cy + 1) * sy → b < stride →
        p[(py * (sx * l.width) + px) * stride + b]? = some (if l.on cx cy then 255 else 0)

/-- R178, R189: the scaler's input from a state is the display, cell for cell. -/
def Obligations.ScalerReadsTheDisplay : Prop :=
  ∀ (s : State) (cx cy : Nat), cx < 64 → cy < 32 →
    s.logicalBuffer.on cx cy = Display.cell s.display cx cy ∧ s.logicalBuffer.width = 64 ∧ s.logicalBuffer.height = 32

/-! ## Reset, loading, whole-machine rules -/

/-- R36, R220: the state after reset, and a reset between ticks. The register values, the initial pc, the zeros of
memory, the font's place and its bytes are the spec's own decisions D5 and D4 (logs 4, 5); `SP = 0` and the cleared
display are CH8's. That the host's schedule, taken one operation a step, decides when a reset happens is the model's choice
(log 13), as is that a reset empties the diagnostic log and leaves the host's inputs (log 27). -/
def Obligations.ResetLeavesTheListedValues : Prop :=
  (∀ x, State.reset.reg x = 0) ∧ State.reset.i = 0 ∧ State.reset.dt = 0 ∧ State.reset.st = 0 ∧ State.reset.sp = 0 ∧
  (∀ k, State.reset.slot k = 0) ∧ State.reset.pc = 0x200 ∧
  (∀ x y, Display.cell State.reset.display x y = false) ∧
  (∀ a, a < 80 → State.reset.readByte a = Config.font.getD a 0) ∧ (∀ a, 80 ≤ a → State.reset.readByte a = 0) ∧
  ∀ (s : State) (rest : List HostOp), s.hostOps = .reset :: rest →
    ∃ t, step s = .next t ∧ t.pc = State.reset.pc ∧ SameBut [.hostSchedule, .keyInput, .randomInput] State.reset t ∧
      t.hostOps = rest ∧ Part.keyInput.same s t ∧ Part.randomInput.same s t

/-- R221, R203: a program image is copied verbatim to 0x200 or, when it does not fit, not at all; nothing else
changes (D21, log 21). That the host's next operation is the head of `State.hostOps` and is taken off it (log 13), and that
the failed load is a fault of the step (log 22), are the model's choices. -/
def Obligations.LoadProgramCopiesAllOrNothing : Prop :=
  ∀ (s : State) (bytes : List Byte) (rest : List HostOp), s.hostOps = .loadProgram bytes :: rest →
    (bytes.length + 0x200 ≤ Config.memSize →
      ∃ t, step s = .next t ∧ (∀ k, k < bytes.length → bytes[k]? = some (t.readByte (0x200 + k))) ∧
        (∀ a, a < 0x200 ∨ 0x200 + bytes.length ≤ a → t.readByte a = s.readByte a) ∧
        t.hostOps = rest ∧ t.pc = s.pc ∧ SameBut [.memory, .hostSchedule] s t) ∧
    (Config.memSize < bytes.length + 0x200 → step s = .fault .loadTooLarge)

/-- R22, R23, R24, R25, R27, R29, R30, R34: which instructions write each element of the state beside V and the pc. -/
def Obligations.OnlyListedInstructionsWriteEachElement : Prop :=
  ∀ (i : Instr) (s t : State), exec i s = .next t →
    (t.i ≠ s.i → (∃ nnn, i = .ldI nnn) ∨ (∃ x, i = .addI x) ∨ (∃ x, i = .ldF x)) ∧
    (t.dt ≠ s.dt → ∃ x, i = .ldDtVx x) ∧ (t.st ≠ s.st → ∃ x, i = .ldStVx x) ∧
    (t.sp ≠ s.sp → (∃ nnn, i = .call nnn ∧ t.sp.toNat = s.sp.toNat + 1) ∨ (i = .ret ∧ t.sp.toNat + 1 = s.sp.toNat)) ∧
    (t.stack ≠ s.stack → ∃ nnn, i = .call nnn) ∧
    (t.mem ≠ s.mem → (∃ x, i = .ldB x) ∨ (∃ x, i = .storeRegs x)) ∧
    (t.display ≠ s.display → i = .cls ∨ ∃ x y n, i = .drw x y n) ∧
    (t.keySamples ≠ s.keySamples → (∃ x, i = .skp x) ∨ (∃ x, i = .sknp x)) ∧
    (t.rndDraws ≠ s.rndDraws → ∃ x kk, i = .rnd x kk) ∧
    t.diagLog = s.diagLog ∧ t.hostOps = s.hostOps

/-- R222: at a self-jump (the end of a run by D25, log 25) a tick changes nothing, under either setting of `PC_QUIRK`. -/
def Obligations.SelfJumpIsAFixedPoint : Prop :=
  ∀ (q : Bool) (s : State), SelfJump q s → tickUnder q s = .next s

/-- R25 to R27, R29, R36: the invariant holds after reset (reset values: D5, log 5; the canonical forms are the model's,
logs 24, 33). -/
def Obligations.ResetMeetsTheInvariant : Prop := Inv State.reset

/-- R25 to R27, R29, R33: every step, a tick or another operation of the host, keeps the invariant: memory and display
canonical, the pc at most 0x10FE, SP within the slots, slots at most `MEM_SIZE`, `stack[0]` untouched (D1 to D3, logs 1 to
3; the canonical forms and the schedule are the model's, logs 24, 33, 13). -/
def Obligations.EveryStepKeepsTheInvariant : Prop :=
  ∀ s t : State, Inv s → step s = .next t → Inv t

/-- R24, R27, R215: ST, the diagnostic records and `stack[0]` are never read: two states that differ only there step
alike, for every step but a reset, which overwrites them. That a step is the head of the host's schedule, or a tick when
there is none (log 13), and that a failed load is a fault (log 22), are the model's choices. -/
def Obligations.UnreadStateNeverMatters : Prop :=
  ∀ s s' : State, DifferInUnread s s' →
    (∀ t, step s = .next t → ∃ t', step s' = .next t' ∧ DifferInUnread t t') ∧
    (∀ f, step s = .fault f → step s' = .fault f)

/-! ## Every configuration (R5, R32): `execFor p`, `tickFor p` and `stepFor p` for any `p : Params` -/

/-- R5: the value of each parameter, the font's bytes apart, and that they meet the constraints every rule assumes
(`MEM_SIZE` is D2, `PCLEN` D3, `FONT_BASE` D4, `PC_QUIRK` D1: logs 1 to 4; the conditions of `Params.Valid` beyond R5's four
are the model's, log 32). -/
def Obligations.HardwareMeetsTheConstraints : Prop :=
  hardware.Valid ∧ hardware.nreg = 16 ∧ hardware.xlen = 8 ∧ hardware.ilen = 12 ∧ hardware.memSize = 4096 ∧
  hardware.pclen = 16 ∧ hardware.stackSlots = 16 ∧ hardware.splen = 4 ∧ hardware.progBase = 0x200 ∧ hardware.fontBase = 0 ∧
  hardware.fontStride = 5 ∧ hardware.lw = 64 ∧ hardware.lh = 32 ∧ hardware.pcQuirk = false

/-- R32: the configuration is an argument, and this hardware is the machine at its own: instructions, ticks, steps and the
state after reset (the form is the model's reading of R5 and R32, log 32). -/
def Obligations.HardwareIsTheMachineAtItsConfiguration : Prop :=
  State.resetFor hardware = State.reset ∧
  ∀ s : State, (∀ i, execFor hardware i s = exec i s) ∧ tickFor hardware s = tick s ∧ stepFor hardware s = step s

/-- R5, R107, R201, R202: in every configuration, which instructions fault, when, and with which fault: `MEM_SIZE` bounds
every address; no instruction is refused. That a call faults when `STACK_SLOTS ≤ SP + 1` is the model's reading (log 32):
R112 and R201 say `SP = 15`, the case of this hardware's 16 slots. It goes beyond the valid configurations: nothing is
asked of `p`. -/
def Obligations.FaultsFollowTheConfiguration : Prop :=
  (∀ (p : Params) (i : Instr) (s : State) (f : Fault), execFor p i s = .fault f ↔
    (i = .ret ∧ s.sp = 0 ∧ f = .stackFault .ret s.pc) ∨
    (∃ nnn, i = .call nnn ∧ p.stackSlots ≤ s.sp.toNat + 1 ∧ f = .stackFault .call s.pc) ∨
    (∃ x, i = .addI x ∧ p.memSize ≤ s.i.toNat + (s.reg x).toNat ∧
      f = .memoryFault .index (s.i.toNat + (s.reg x).toNat) s.pc) ∨
    (∃ x, i = .ldB x ∧ p.memSize ≤ s.i.toNat + 2 ∧ f = .memoryFault .store (s.i.toNat + 2) s.pc) ∨
    (∃ x, i = .storeRegs x ∧ p.memSize ≤ s.i.toNat + x.val ∧ f = .memoryFault .store (s.i.toNat + x.val) s.pc) ∨
    (∃ x, i = .loadRegs x ∧ p.memSize ≤ s.i.toNat + x.val ∧ f = .memoryFault .load (s.i.toNat + x.val) s.pc) ∨
    (∃ x y n, i = .drw x y n ∧ 1 ≤ n ∧ p.memSize ≤ s.i.toNat + n - 1 ∧
      f = .memoryFault .load (s.i.toNat + n - 1) s.pc)) ∧
  (∀ (p : Params) (i : Instr) (s : State) (r : Refusal), execFor p i s ≠ .refused r) ∧
  (∀ (p : Params) (s : State) (f : Fault), tickFor p s = .fault f ↔
    (p.memSize ≤ s.pc.toNat + 1 ∧ f = .memoryFault .fetch s.pc.toNat s.pc) ∨
    (s.pc.toNat + 1 < p.memSize ∧ ∃ i, decodeWord (s.fetchWord p) = .ok i ∧ execFor p i s = .fault f))

/-- R5, R36, R56, R152: in every valid configuration the pc after reset is `PROG_BASE`, memory holds the font's bytes from
`FONT_BASE` on and zeros elsewhere, and `Fx29` finds the glyphs there (the zeros and the initial pc are D5, the font's place
D4, the digit's low four bits D9: logs 4, 5, 8; which configurations are valid: log 32). -/
def Obligations.ResetAndFontFollowTheConfiguration : Prop :=
  ∀ p : Params, p.Valid →
    (State.resetFor p).pc.toNat = p.progBase ∧
    (∀ k, k < 80 → p.font[k]? = some ((State.resetFor p).readByte (p.fontBase + k) p)) ∧
    (∀ a, a < p.fontBase ∨ p.fontBase + 80 ≤ a → (State.resetFor p).readByte a p = 0) ∧
    ∀ (x : Reg) (s : State), ∃ t, execFor p (.ldF x) s = .next t ∧
      t.i.toNat = p.fontBase + p.fontStride * ((s.reg x).toNat % 16) ∧ SameBut [.index] s t p ∧ t.pc = s.pc + 2

/-- R5, R221, R203: in every configuration an image is copied verbatim to `PROG_BASE` when it fits below `MEM_SIZE`, and
otherwise not at all. That the load goes to `PROG_BASE`, R5's load address of the program image, is the model's reading
(log 32): R221 and R203 write the number 0x200, this hardware's `PROG_BASE`. It goes beyond the valid configurations:
nothing is asked of `p` (the schedule is log 13, the untouched rest D21 and log 21, the failure as a fault log 22). -/
def Obligations.LoadFollowsTheConfiguration : Prop :=
  ∀ (p : Params) (s : State) (bytes : List Byte) (rest : List HostOp), s.hostOps = .loadProgram bytes :: rest →
    (bytes.length + p.progBase ≤ p.memSize →
      ∃ t, stepFor p s = .next t ∧ (∀ k, k < bytes.length → bytes[k]? = some (t.readByte (p.progBase + k) p)) ∧
        (∀ a, a < p.progBase ∨ p.progBase + bytes.length ≤ a → t.readByte a p = s.readByte a p) ∧
        t.hostOps = rest ∧ t.pc = s.pc ∧ SameBut [.memory, .hostSchedule] s t p) ∧
    (p.memSize < bytes.length + p.progBase → stepFor p s = .fault .loadTooLarge)

/-- R176, R177: in every configuration with at least 8 columns and `n` rows, so that a sprite touches no cell twice, the
draw XORs the sprite into the display wrapped at `LW` and `LH`, and VF tells whether a cell went from on to off (`n = 0` is
D19, I staying D20: logs 19, 20). -/
def Obligations.DrawFollowsTheConfiguration : Prop :=
  ∀ (p : Params) (x y : Reg) (n : Nat) (s : State), 8 ≤ p.lw → n ≤ p.lh → (n = 0 ∨ s.i.toNat + n - 1 < p.memSize) →
    ∃ t, execFor p (.drw x y n) s = .next t ∧
      (∀ cx cy, cx < p.lw → cy < p.lh → Display.cell t.display cx cy p =
        (Display.cell s.display cx cy p ^^ spriteBit s.mem (s.ea 0) (s.reg x).toNat (s.reg y).toNat n cx cy p)) ∧
      ((∃ cx cy, cx < p.lw ∧ cy < p.lh ∧ Display.cell s.display cx cy p = true ∧ Display.cell t.display cx cy p = false) →
        t.reg 15 = 1) ∧
      ((¬ ∃ cx cy, cx < p.lw ∧ cy < p.lh ∧ Display.cell s.display cx cy p = true ∧ Display.cell t.display cx cy p = false) →
        t.reg 15 = 0) ∧
      RegsSameBut [15] s t ∧ SameBut [.regs, .display] s t p ∧ t.pc = s.pc + 2

/-- R178, R185: in every configuration the snapshot has one byte a cell, row-major, and the scaler's input is that
display at its own dimensions (the order and the value 1 are D14, log 15). -/
def Obligations.SnapshotFollowsTheConfiguration : Prop :=
  ∀ (p : Params) (s : State), (s.displaySnapshot p).length = p.lw * p.lh ∧
    (s.logicalBuffer p).width = p.lw ∧ (s.logicalBuffer p).height = p.lh ∧
    ∀ x y, x < p.lw → y < p.lh →
      (s.displaySnapshot p)[y * p.lw + x]? = some (if Display.cell s.display x y p then 1 else 0) ∧
      (s.logicalBuffer p).on x y = Display.cell s.display x y p

/-- R25 to R27, R29, R36: in every valid configuration the invariant holds after reset (D5, log 5; which configurations are
valid: log 32; the canonical forms: logs 24, 33). -/
def Obligations.ResetMeetsTheInvariantInEveryConfiguration : Prop :=
  ∀ p : Params, p.Valid → Inv (State.resetFor p) p

/-- R25 to R27, R29, R33: in every valid configuration every step keeps the invariant, whose bounds are that
configuration's (which are valid, and that calls and loads follow `STACK_SLOTS` and `PROG_BASE`: log 32; the canonical
forms: logs 24, 33; the schedule: log 13). -/
def Obligations.EveryStepKeepsTheInvariantInEveryConfiguration : Prop :=
  ∀ (p : Params) (s t : State), p.Valid → Inv s p → stepFor p s = .next t → Inv t p
end

