-- ==== Sys2Proof/Laws/Decode.lean ====
section
/-! SUPPORT. The fields of an encoded word (R71, R72), the value of each format, and the word from its fields. -/

namespace Sys2Proof

theorem regField_toNat (x : Reg) : (regField x).toNat = x.val := rfl

/-- R71 by arithmetic: every field is a quotient and remainder of the word. -/
theorem Opcode.ofWord_toNat (w : Word) :
    (Opcode.ofWord w).address.toNat = w.toNat / 4096 ∧ (Opcode.ofWord w).x.toNat = w.toNat / 256 % 16 ∧
    (Opcode.ofWord w).y.toNat = w.toNat / 16 % 16 ∧ (Opcode.ofWord w).n.toNat = w.toNat % 16 ∧
    (Opcode.ofWord w).kk.toNat = w.toNat % 256 ∧ (Opcode.ofWord w).nnn.toNat = w.toNat % 4096 := by
  have := w.isLt
  simp only [Opcode.ofWord, BitVec.extractLsb'_toNat, Nat.shiftRight_eq_div_pow]
  refine ⟨?_, ?_, ?_, ?_, ?_, ?_⟩ <;> first | trivial | omega

/-- Concatenation by arithmetic (R6). -/
theorem toNat_append_eq {m n : Nat} (a : BitVec m) (b : BitVec n) : (a ++ b).toNat = a.toNat * 2 ^ n + b.toNat := by
  rw [BitVec.toNat_append, ← Nat.shiftLeft_add_eq_or_of_lt b.isLt, Nat.shiftLeft_eq]

theorem encodeNNN_toNat (op : BitVec 4) (nnn : BitVec 12) :
    (encodeNNN op nnn).toNat = op.toNat * 4096 + nnn.toNat := toNat_append_eq op nnn

theorem encodeXKK_toNat (op : BitVec 4) (x : Reg) (kk : BitVec 8) :
    (encodeXKK op x kk).toNat = op.toNat * 4096 + x.val * 256 + kk.toNat := by
  simp only [encodeXKK, toNat_append_eq, regField_toNat]; omega

theorem encodeXYN_toNat (op : BitVec 4) (x y : Reg) (n : BitVec 4) :
    (encodeXYN op x y n).toNat = op.toNat * 4096 + x.val * 256 + y.val * 16 + n.toNat := by
  simp only [encodeXYN, toNat_append_eq, regField_toNat]; omega

/-- The fields of a word of format `NNN`. -/
theorem Opcode.ofWord_encodeNNN (op : BitVec 4) (nnn : BitVec 12) :
    (Opcode.ofWord (encodeNNN op nnn)).address = op ∧ (Opcode.ofWord (encodeNNN op nnn)).nnn = nnn := by
  obtain ⟨ha, -, -, -, -, hn⟩ := Opcode.ofWord_toNat (encodeNNN op nnn)
  have := nnn.isLt
  rw [encodeNNN_toNat] at ha hn
  exact ⟨BitVec.eq_of_toNat_eq (by omega), BitVec.eq_of_toNat_eq (by omega)⟩

/-- The fields of a word of formats `XKK` and `X`. -/
theorem Opcode.ofWord_encodeXKK (op : BitVec 4) (x : Reg) (kk : BitVec 8) :
    (Opcode.ofWord (encodeXKK op x kk)).address = op ∧ (Opcode.ofWord (encodeXKK op x kk)).rx = x ∧
    (Opcode.ofWord (encodeXKK op x kk)).kk = kk := by
  obtain ⟨ha, hx, -, -, hk, -⟩ := Opcode.ofWord_toNat (encodeXKK op x kk)
  have := x.isLt
  have := kk.isLt
  rw [encodeXKK_toNat] at ha hx hk
  exact ⟨BitVec.eq_of_toNat_eq (by omega), Fin.ext (by simp only [Opcode.rx, BitVec.val_toFin]; omega),
    BitVec.eq_of_toNat_eq (by omega)⟩

/-- The fields of a word of formats `XYN` and `XY`. -/
theorem Opcode.ofWord_encodeXYN (op : BitVec 4) (x y : Reg) (n : BitVec 4) :
    (Opcode.ofWord (encodeXYN op x y n)).address = op ∧ (Opcode.ofWord (encodeXYN op x y n)).rx = x ∧
    (Opcode.ofWord (encodeXYN op x y n)).ry = y ∧ (Opcode.ofWord (encodeXYN op x y n)).n = n := by
  obtain ⟨ha, hx, hy, hn, -, -⟩ := Opcode.ofWord_toNat (encodeXYN op x y n)
  have := x.isLt
  have := y.isLt
  have := n.isLt
  rw [encodeXYN_toNat] at ha hx hy hn
  exact ⟨BitVec.eq_of_toNat_eq (by omega), Fin.ext (by simp only [Opcode.rx, BitVec.val_toFin]; omega),
    Fin.ext (by simp only [Opcode.ry, BitVec.val_toFin]; omega), BitVec.eq_of_toNat_eq (by omega)⟩

/-- A word is its class nibble and its `nnn` field. -/
theorem Opcode.encodeNNN_fields (w : Word) :
    encodeNNN (Opcode.ofWord w).address (Opcode.ofWord w).nnn = w := by
  obtain ⟨ha, -, -, -, -, hn⟩ := Opcode.ofWord_toNat w
  refine BitVec.eq_of_toNat_eq ?_
  rw [encodeNNN_toNat]; omega

/-- A word is its class nibble, its `x` field and its `kk` field. -/
theorem Opcode.encodeXKK_fields (w : Word) :
    encodeXKK (Opcode.ofWord w).address (Opcode.ofWord w).rx (Opcode.ofWord w).kk = w := by
  obtain ⟨ha, hx, -, -, hk, -⟩ := Opcode.ofWord_toNat w
  refine BitVec.eq_of_toNat_eq ?_
  rw [encodeXKK_toNat]; simp only [Opcode.rx, BitVec.val_toFin]; omega

/-- A word is its four nibbles. -/
theorem Opcode.encodeXYN_fields (w : Word) :
    encodeXYN (Opcode.ofWord w).address (Opcode.ofWord w).rx (Opcode.ofWord w).ry (Opcode.ofWord w).n = w := by
  obtain ⟨ha, hx, hy, hn, -, -⟩ := Opcode.ofWord_toNat w
  refine BitVec.eq_of_toNat_eq ?_
  rw [encodeXYN_toNat]; simp only [Opcode.rx, Opcode.ry, BitVec.val_toFin]; omega

end Sys2Proof
end

