-- ==== Sys2Proof/Laws/State.lean ====
section
/-! SUPPORT. What each shared update does to each field of the state, and to what a register, slot and byte read as: the
simp set that keeps later proofs from unfolding a record update. -/

namespace Sys2Proof.Machine

/-! ## setReg -/

@[simp] theorem State.setReg_v (s : State) (x : Reg) (b : Byte) : (s.setReg x b).v = s.v.set x.val b := rfl
@[simp] theorem State.setReg_i (s : State) (x : Reg) (b : Byte) : (s.setReg x b).i = s.i := rfl
@[simp] theorem State.setReg_dt (s : State) (x : Reg) (b : Byte) : (s.setReg x b).dt = s.dt := rfl
@[simp] theorem State.setReg_st (s : State) (x : Reg) (b : Byte) : (s.setReg x b).st = s.st := rfl
@[simp] theorem State.setReg_sp (s : State) (x : Reg) (b : Byte) : (s.setReg x b).sp = s.sp := rfl
@[simp] theorem State.setReg_pc (s : State) (x : Reg) (b : Byte) : (s.setReg x b).pc = s.pc := rfl
@[simp] theorem State.setReg_stack (s : State) (x : Reg) (b : Byte) : (s.setReg x b).stack = s.stack := rfl
@[simp] theorem State.setReg_mem (s : State) (x : Reg) (b : Byte) : (s.setReg x b).mem = s.mem := rfl
@[simp] theorem State.setReg_display (s : State) (x : Reg) (b : Byte) : (s.setReg x b).display = s.display := rfl
@[simp] theorem State.setReg_diagLog (s : State) (x : Reg) (b : Byte) : (s.setReg x b).diagLog = s.diagLog := rfl
@[simp] theorem State.setReg_keyTape (s : State) (x : Reg) (b : Byte) : (s.setReg x b).keyTape = s.keyTape := rfl
@[simp] theorem State.setReg_keySamples (s : State) (x : Reg) (b : Byte) : (s.setReg x b).keySamples = s.keySamples := rfl
@[simp] theorem State.setReg_rndTape (s : State) (x : Reg) (b : Byte) : (s.setReg x b).rndTape = s.rndTape := rfl
@[simp] theorem State.setReg_rndDraws (s : State) (x : Reg) (b : Byte) : (s.setReg x b).rndDraws = s.rndDraws := rfl
@[simp] theorem State.setReg_hostOps (s : State) (x : Reg) (b : Byte) : (s.setReg x b).hostOps = s.hostOps := rfl
@[simp] theorem State.setReg_slot (s : State) (x : Reg) (b : Byte) (j : StackPtr) : (s.setReg x b).slot j = s.slot j := rfl
@[simp] theorem State.setReg_readByte (s : State) (x : Reg) (b : Byte) (c : Nat) (p : Params) : (s.setReg x b).readByte c p = s.readByte c p := rfl

/-! ## setSlot -/

@[simp] theorem State.setSlot_v (s : State) (k : StackPtr) (w : Word) : (s.setSlot k w).v = s.v := rfl
@[simp] theorem State.setSlot_i (s : State) (k : StackPtr) (w : Word) : (s.setSlot k w).i = s.i := rfl
@[simp] theorem State.setSlot_dt (s : State) (k : StackPtr) (w : Word) : (s.setSlot k w).dt = s.dt := rfl
@[simp] theorem State.setSlot_st (s : State) (k : StackPtr) (w : Word) : (s.setSlot k w).st = s.st := rfl
@[simp] theorem State.setSlot_sp (s : State) (k : StackPtr) (w : Word) : (s.setSlot k w).sp = s.sp := rfl
@[simp] theorem State.setSlot_pc (s : State) (k : StackPtr) (w : Word) : (s.setSlot k w).pc = s.pc := rfl
@[simp] theorem State.setSlot_stack (s : State) (k : StackPtr) (w : Word) : (s.setSlot k w).stack = s.stack.set k.toNat w k.isLt := rfl
@[simp] theorem State.setSlot_mem (s : State) (k : StackPtr) (w : Word) : (s.setSlot k w).mem = s.mem := rfl
@[simp] theorem State.setSlot_display (s : State) (k : StackPtr) (w : Word) : (s.setSlot k w).display = s.display := rfl
@[simp] theorem State.setSlot_diagLog (s : State) (k : StackPtr) (w : Word) : (s.setSlot k w).diagLog = s.diagLog := rfl
@[simp] theorem State.setSlot_keyTape (s : State) (k : StackPtr) (w : Word) : (s.setSlot k w).keyTape = s.keyTape := rfl
@[simp] theorem State.setSlot_keySamples (s : State) (k : StackPtr) (w : Word) : (s.setSlot k w).keySamples = s.keySamples := rfl
@[simp] theorem State.setSlot_rndTape (s : State) (k : StackPtr) (w : Word) : (s.setSlot k w).rndTape = s.rndTape := rfl
@[simp] theorem State.setSlot_rndDraws (s : State) (k : StackPtr) (w : Word) : (s.setSlot k w).rndDraws = s.rndDraws := rfl
@[simp] theorem State.setSlot_hostOps (s : State) (k : StackPtr) (w : Word) : (s.setSlot k w).hostOps = s.hostOps := rfl
@[simp] theorem State.setSlot_reg (s : State) (k : StackPtr) (w : Word) (y : Reg) : (s.setSlot k w).reg y = s.reg y := rfl
@[simp] theorem State.setSlot_readByte (s : State) (k : StackPtr) (w : Word) (c : Nat) (p : Params) : (s.setSlot k w).readByte c p = s.readByte c p := rfl

/-! ## writeBytes -/

@[simp] theorem State.writeBytes_v (s : State) (a : Nat) (bs : List Byte) (p : Params) : (s.writeBytes a bs p).v = s.v := rfl
@[simp] theorem State.writeBytes_i (s : State) (a : Nat) (bs : List Byte) (p : Params) : (s.writeBytes a bs p).i = s.i := rfl
@[simp] theorem State.writeBytes_dt (s : State) (a : Nat) (bs : List Byte) (p : Params) : (s.writeBytes a bs p).dt = s.dt := rfl
@[simp] theorem State.writeBytes_st (s : State) (a : Nat) (bs : List Byte) (p : Params) : (s.writeBytes a bs p).st = s.st := rfl
@[simp] theorem State.writeBytes_sp (s : State) (a : Nat) (bs : List Byte) (p : Params) : (s.writeBytes a bs p).sp = s.sp := rfl
@[simp] theorem State.writeBytes_pc (s : State) (a : Nat) (bs : List Byte) (p : Params) : (s.writeBytes a bs p).pc = s.pc := rfl
@[simp] theorem State.writeBytes_stack (s : State) (a : Nat) (bs : List Byte) (p : Params) : (s.writeBytes a bs p).stack = s.stack := rfl
@[simp] theorem State.writeBytes_mem (s : State) (a : Nat) (bs : List Byte) (p : Params) : (s.writeBytes a bs p).mem = s.mem.writeBytes a bs p := rfl
@[simp] theorem State.writeBytes_display (s : State) (a : Nat) (bs : List Byte) (p : Params) : (s.writeBytes a bs p).display = s.display := rfl
@[simp] theorem State.writeBytes_diagLog (s : State) (a : Nat) (bs : List Byte) (p : Params) : (s.writeBytes a bs p).diagLog = s.diagLog := rfl
@[simp] theorem State.writeBytes_keyTape (s : State) (a : Nat) (bs : List Byte) (p : Params) : (s.writeBytes a bs p).keyTape = s.keyTape := rfl
@[simp] theorem State.writeBytes_keySamples (s : State) (a : Nat) (bs : List Byte) (p : Params) : (s.writeBytes a bs p).keySamples = s.keySamples := rfl
@[simp] theorem State.writeBytes_rndTape (s : State) (a : Nat) (bs : List Byte) (p : Params) : (s.writeBytes a bs p).rndTape = s.rndTape := rfl
@[simp] theorem State.writeBytes_rndDraws (s : State) (a : Nat) (bs : List Byte) (p : Params) : (s.writeBytes a bs p).rndDraws = s.rndDraws := rfl
@[simp] theorem State.writeBytes_hostOps (s : State) (a : Nat) (bs : List Byte) (p : Params) : (s.writeBytes a bs p).hostOps = s.hostOps := rfl
@[simp] theorem State.writeBytes_reg (s : State) (a : Nat) (bs : List Byte) (p : Params) (y : Reg) : (s.writeBytes a bs p).reg y = s.reg y := rfl
@[simp] theorem State.writeBytes_slot (s : State) (a : Nat) (bs : List Byte) (p : Params) (j : StackPtr) : (s.writeBytes a bs p).slot j = s.slot j := rfl

/-! ## leavePc -/

@[simp] theorem State.leavePc_v (s : State) (w : Word) (q : Bool) : (s.leavePc w q).v = s.v := rfl
@[simp] theorem State.leavePc_i (s : State) (w : Word) (q : Bool) : (s.leavePc w q).i = s.i := rfl
@[simp] theorem State.leavePc_dt (s : State) (w : Word) (q : Bool) : (s.leavePc w q).dt = s.dt := rfl
@[simp] theorem State.leavePc_st (s : State) (w : Word) (q : Bool) : (s.leavePc w q).st = s.st := rfl
@[simp] theorem State.leavePc_sp (s : State) (w : Word) (q : Bool) : (s.leavePc w q).sp = s.sp := rfl
@[simp] theorem State.leavePc_pc (s : State) (w : Word) (q : Bool) : (s.leavePc w q).pc = w + postAdd q := rfl
@[simp] theorem State.leavePc_stack (s : State) (w : Word) (q : Bool) : (s.leavePc w q).stack = s.stack := rfl
@[simp] theorem State.leavePc_mem (s : State) (w : Word) (q : Bool) : (s.leavePc w q).mem = s.mem := rfl
@[simp] theorem State.leavePc_display (s : State) (w : Word) (q : Bool) : (s.leavePc w q).display = s.display := rfl
@[simp] theorem State.leavePc_diagLog (s : State) (w : Word) (q : Bool) : (s.leavePc w q).diagLog = s.diagLog := rfl
@[simp] theorem State.leavePc_keyTape (s : State) (w : Word) (q : Bool) : (s.leavePc w q).keyTape = s.keyTape := rfl
@[simp] theorem State.leavePc_keySamples (s : State) (w : Word) (q : Bool) : (s.leavePc w q).keySamples = s.keySamples := rfl
@[simp] theorem State.leavePc_rndTape (s : State) (w : Word) (q : Bool) : (s.leavePc w q).rndTape = s.rndTape := rfl
@[simp] theorem State.leavePc_rndDraws (s : State) (w : Word) (q : Bool) : (s.leavePc w q).rndDraws = s.rndDraws := rfl
@[simp] theorem State.leavePc_hostOps (s : State) (w : Word) (q : Bool) : (s.leavePc w q).hostOps = s.hostOps := rfl
@[simp] theorem State.leavePc_reg (s : State) (w : Word) (q : Bool) (y : Reg) : (s.leavePc w q).reg y = s.reg y := rfl
@[simp] theorem State.leavePc_slot (s : State) (w : Word) (q : Bool) (j : StackPtr) : (s.leavePc w q).slot j = s.slot j := rfl
@[simp] theorem State.leavePc_readByte (s : State) (w : Word) (q : Bool) (c : Nat) (p : Params) : (s.leavePc w q).readByte c p = s.readByte c p := rfl

/-! ## advance -/

@[simp] theorem State.advance_v (s : State) (q : Bool) : (s.advance q).v = s.v := rfl
@[simp] theorem State.advance_i (s : State) (q : Bool) : (s.advance q).i = s.i := rfl
@[simp] theorem State.advance_dt (s : State) (q : Bool) : (s.advance q).dt = s.dt := rfl
@[simp] theorem State.advance_st (s : State) (q : Bool) : (s.advance q).st = s.st := rfl
@[simp] theorem State.advance_sp (s : State) (q : Bool) : (s.advance q).sp = s.sp := rfl
@[simp] theorem State.advance_stack (s : State) (q : Bool) : (s.advance q).stack = s.stack := rfl
@[simp] theorem State.advance_mem (s : State) (q : Bool) : (s.advance q).mem = s.mem := rfl
@[simp] theorem State.advance_display (s : State) (q : Bool) : (s.advance q).display = s.display := rfl
@[simp] theorem State.advance_diagLog (s : State) (q : Bool) : (s.advance q).diagLog = s.diagLog := rfl
@[simp] theorem State.advance_keyTape (s : State) (q : Bool) : (s.advance q).keyTape = s.keyTape := rfl
@[simp] theorem State.advance_keySamples (s : State) (q : Bool) : (s.advance q).keySamples = s.keySamples := rfl
@[simp] theorem State.advance_rndTape (s : State) (q : Bool) : (s.advance q).rndTape = s.rndTape := rfl
@[simp] theorem State.advance_rndDraws (s : State) (q : Bool) : (s.advance q).rndDraws = s.rndDraws := rfl
@[simp] theorem State.advance_hostOps (s : State) (q : Bool) : (s.advance q).hostOps = s.hostOps := rfl
@[simp] theorem State.advance_reg (s : State) (q : Bool) (y : Reg) : (s.advance q).reg y = s.reg y := rfl
@[simp] theorem State.advance_slot (s : State) (q : Bool) (j : StackPtr) : (s.advance q).slot j = s.slot j := rfl
@[simp] theorem State.advance_readByte (s : State) (q : Bool) (c : Nat) (p : Params) : (s.advance q).readByte c p = s.readByte c p := rfl

/-! ## skipIf -/

@[simp] theorem State.skipIf_v (s : State) (b q : Bool) : (s.skipIf b q).v = s.v := rfl
@[simp] theorem State.skipIf_i (s : State) (b q : Bool) : (s.skipIf b q).i = s.i := rfl
@[simp] theorem State.skipIf_dt (s : State) (b q : Bool) : (s.skipIf b q).dt = s.dt := rfl
@[simp] theorem State.skipIf_st (s : State) (b q : Bool) : (s.skipIf b q).st = s.st := rfl
@[simp] theorem State.skipIf_sp (s : State) (b q : Bool) : (s.skipIf b q).sp = s.sp := rfl
@[simp] theorem State.skipIf_stack (s : State) (b q : Bool) : (s.skipIf b q).stack = s.stack := rfl
@[simp] theorem State.skipIf_mem (s : State) (b q : Bool) : (s.skipIf b q).mem = s.mem := rfl
@[simp] theorem State.skipIf_display (s : State) (b q : Bool) : (s.skipIf b q).display = s.display := rfl
@[simp] theorem State.skipIf_diagLog (s : State) (b q : Bool) : (s.skipIf b q).diagLog = s.diagLog := rfl
@[simp] theorem State.skipIf_keyTape (s : State) (b q : Bool) : (s.skipIf b q).keyTape = s.keyTape := rfl
@[simp] theorem State.skipIf_keySamples (s : State) (b q : Bool) : (s.skipIf b q).keySamples = s.keySamples := rfl
@[simp] theorem State.skipIf_rndTape (s : State) (b q : Bool) : (s.skipIf b q).rndTape = s.rndTape := rfl
@[simp] theorem State.skipIf_rndDraws (s : State) (b q : Bool) : (s.skipIf b q).rndDraws = s.rndDraws := rfl
@[simp] theorem State.skipIf_hostOps (s : State) (b q : Bool) : (s.skipIf b q).hostOps = s.hostOps := rfl
@[simp] theorem State.skipIf_reg (s : State) (b q : Bool) (y : Reg) : (s.skipIf b q).reg y = s.reg y := rfl
@[simp] theorem State.skipIf_slot (s : State) (b q : Bool) (j : StackPtr) : (s.skipIf b q).slot j = s.slot j := rfl
@[simp] theorem State.skipIf_readByte (s : State) (b q : Bool) (c : Nat) (p : Params) : (s.skipIf b q).readByte c p = s.readByte c p := rfl

/-! ## keysSampled -/

@[simp] theorem State.keysSampled_v (s : State) : (s.keysSampled).v = s.v := rfl
@[simp] theorem State.keysSampled_i (s : State) : (s.keysSampled).i = s.i := rfl
@[simp] theorem State.keysSampled_dt (s : State) : (s.keysSampled).dt = s.dt := rfl
@[simp] theorem State.keysSampled_st (s : State) : (s.keysSampled).st = s.st := rfl
@[simp] theorem State.keysSampled_sp (s : State) : (s.keysSampled).sp = s.sp := rfl
@[simp] theorem State.keysSampled_pc (s : State) : (s.keysSampled).pc = s.pc := rfl
@[simp] theorem State.keysSampled_stack (s : State) : (s.keysSampled).stack = s.stack := rfl
@[simp] theorem State.keysSampled_mem (s : State) : (s.keysSampled).mem = s.mem := rfl
@[simp] theorem State.keysSampled_display (s : State) : (s.keysSampled).display = s.display := rfl
@[simp] theorem State.keysSampled_diagLog (s : State) : (s.keysSampled).diagLog = s.diagLog := rfl
@[simp] theorem State.keysSampled_keyTape (s : State) : (s.keysSampled).keyTape = s.keyTape.tail := rfl
@[simp] theorem State.keysSampled_keySamples (s : State) : (s.keysSampled).keySamples = s.keySamples + 1 := rfl
@[simp] theorem State.keysSampled_rndTape (s : State) : (s.keysSampled).rndTape = s.rndTape := rfl
@[simp] theorem State.keysSampled_rndDraws (s : State) : (s.keysSampled).rndDraws = s.rndDraws := rfl
@[simp] theorem State.keysSampled_hostOps (s : State) : (s.keysSampled).hostOps = s.hostOps := rfl
@[simp] theorem State.keysSampled_reg (s : State) (y : Reg) : (s.keysSampled).reg y = s.reg y := rfl
@[simp] theorem State.keysSampled_slot (s : State) (j : StackPtr) : (s.keysSampled).slot j = s.slot j := rfl
@[simp] theorem State.keysSampled_readByte (s : State) (c : Nat) (p : Params) : (s.keysSampled).readByte c p = s.readByte c p := rfl

/-! ## randomDrawn -/

@[simp] theorem State.randomDrawn_v (s : State) : (s.randomDrawn).v = s.v := rfl
@[simp] theorem State.randomDrawn_i (s : State) : (s.randomDrawn).i = s.i := rfl
@[simp] theorem State.randomDrawn_dt (s : State) : (s.randomDrawn).dt = s.dt := rfl
@[simp] theorem State.randomDrawn_st (s : State) : (s.randomDrawn).st = s.st := rfl
@[simp] theorem State.randomDrawn_sp (s : State) : (s.randomDrawn).sp = s.sp := rfl
@[simp] theorem State.randomDrawn_pc (s : State) : (s.randomDrawn).pc = s.pc := rfl
@[simp] theorem State.randomDrawn_stack (s : State) : (s.randomDrawn).stack = s.stack := rfl
@[simp] theorem State.randomDrawn_mem (s : State) : (s.randomDrawn).mem = s.mem := rfl
@[simp] theorem State.randomDrawn_display (s : State) : (s.randomDrawn).display = s.display := rfl
@[simp] theorem State.randomDrawn_diagLog (s : State) : (s.randomDrawn).diagLog = s.diagLog := rfl
@[simp] theorem State.randomDrawn_keyTape (s : State) : (s.randomDrawn).keyTape = s.keyTape := rfl
@[simp] theorem State.randomDrawn_keySamples (s : State) : (s.randomDrawn).keySamples = s.keySamples := rfl
@[simp] theorem State.randomDrawn_rndTape (s : State) : (s.randomDrawn).rndTape = s.rndTape.tail := rfl
@[simp] theorem State.randomDrawn_rndDraws (s : State) : (s.randomDrawn).rndDraws = s.rndDraws + 1 := rfl
@[simp] theorem State.randomDrawn_hostOps (s : State) : (s.randomDrawn).hostOps = s.hostOps := rfl
@[simp] theorem State.randomDrawn_reg (s : State) (y : Reg) : (s.randomDrawn).reg y = s.reg y := rfl
@[simp] theorem State.randomDrawn_slot (s : State) (j : StackPtr) : (s.randomDrawn).slot j = s.slot j := rfl
@[simp] theorem State.randomDrawn_readByte (s : State) (c : Nat) (p : Params) : (s.randomDrawn).readByte c p = s.readByte c p := rfl

/-! ## setFlag -/

@[simp] theorem State.setFlag_i (s : State) (f : Bool) : (s.setFlag f).i = s.i := rfl
@[simp] theorem State.setFlag_dt (s : State) (f : Bool) : (s.setFlag f).dt = s.dt := rfl
@[simp] theorem State.setFlag_st (s : State) (f : Bool) : (s.setFlag f).st = s.st := rfl
@[simp] theorem State.setFlag_sp (s : State) (f : Bool) : (s.setFlag f).sp = s.sp := rfl
@[simp] theorem State.setFlag_pc (s : State) (f : Bool) : (s.setFlag f).pc = s.pc := rfl
@[simp] theorem State.setFlag_stack (s : State) (f : Bool) : (s.setFlag f).stack = s.stack := rfl
@[simp] theorem State.setFlag_mem (s : State) (f : Bool) : (s.setFlag f).mem = s.mem := rfl
@[simp] theorem State.setFlag_display (s : State) (f : Bool) : (s.setFlag f).display = s.display := rfl
@[simp] theorem State.setFlag_diagLog (s : State) (f : Bool) : (s.setFlag f).diagLog = s.diagLog := rfl
@[simp] theorem State.setFlag_keyTape (s : State) (f : Bool) : (s.setFlag f).keyTape = s.keyTape := rfl
@[simp] theorem State.setFlag_keySamples (s : State) (f : Bool) : (s.setFlag f).keySamples = s.keySamples := rfl
@[simp] theorem State.setFlag_rndTape (s : State) (f : Bool) : (s.setFlag f).rndTape = s.rndTape := rfl
@[simp] theorem State.setFlag_rndDraws (s : State) (f : Bool) : (s.setFlag f).rndDraws = s.rndDraws := rfl
@[simp] theorem State.setFlag_hostOps (s : State) (f : Bool) : (s.setFlag f).hostOps = s.hostOps := rfl
@[simp] theorem State.setFlag_slot (s : State) (f : Bool) (j : StackPtr) : (s.setFlag f).slot j = s.slot j := rfl
@[simp] theorem State.setFlag_readByte (s : State) (f : Bool) (c : Nat) (p : Params) : (s.setFlag f).readByte c p = s.readByte c p := rfl

/-! ## setFlagThenReg -/

@[simp] theorem State.setFlagThenReg_i (s : State) (f : Bool) (x : Reg) (b : Byte) : (s.setFlagThenReg f x b).i = s.i := rfl
@[simp] theorem State.setFlagThenReg_dt (s : State) (f : Bool) (x : Reg) (b : Byte) : (s.setFlagThenReg f x b).dt = s.dt := rfl
@[simp] theorem State.setFlagThenReg_st (s : State) (f : Bool) (x : Reg) (b : Byte) : (s.setFlagThenReg f x b).st = s.st := rfl
@[simp] theorem State.setFlagThenReg_sp (s : State) (f : Bool) (x : Reg) (b : Byte) : (s.setFlagThenReg f x b).sp = s.sp := rfl
@[simp] theorem State.setFlagThenReg_pc (s : State) (f : Bool) (x : Reg) (b : Byte) : (s.setFlagThenReg f x b).pc = s.pc := rfl
@[simp] theorem State.setFlagThenReg_stack (s : State) (f : Bool) (x : Reg) (b : Byte) : (s.setFlagThenReg f x b).stack = s.stack := rfl
@[simp] theorem State.setFlagThenReg_mem (s : State) (f : Bool) (x : Reg) (b : Byte) : (s.setFlagThenReg f x b).mem = s.mem := rfl
@[simp] theorem State.setFlagThenReg_display (s : State) (f : Bool) (x : Reg) (b : Byte) : (s.setFlagThenReg f x b).display = s.display := rfl
@[simp] theorem State.setFlagThenReg_diagLog (s : State) (f : Bool) (x : Reg) (b : Byte) : (s.setFlagThenReg f x b).diagLog = s.diagLog := rfl
@[simp] theorem State.setFlagThenReg_keyTape (s : State) (f : Bool) (x : Reg) (b : Byte) : (s.setFlagThenReg f x b).keyTape = s.keyTape := rfl
@[simp] theorem State.setFlagThenReg_keySamples (s : State) (f : Bool) (x : Reg) (b : Byte) : (s.setFlagThenReg f x b).keySamples = s.keySamples := rfl
@[simp] theorem State.setFlagThenReg_rndTape (s : State) (f : Bool) (x : Reg) (b : Byte) : (s.setFlagThenReg f x b).rndTape = s.rndTape := rfl
@[simp] theorem State.setFlagThenReg_rndDraws (s : State) (f : Bool) (x : Reg) (b : Byte) : (s.setFlagThenReg f x b).rndDraws = s.rndDraws := rfl
@[simp] theorem State.setFlagThenReg_hostOps (s : State) (f : Bool) (x : Reg) (b : Byte) : (s.setFlagThenReg f x b).hostOps = s.hostOps := rfl
@[simp] theorem State.setFlagThenReg_slot (s : State) (f : Bool) (x : Reg) (b : Byte) (j : StackPtr) : (s.setFlagThenReg f x b).slot j = s.slot j := rfl
@[simp] theorem State.setFlagThenReg_readByte (s : State) (f : Bool) (x : Reg) (b : Byte) (c : Nat) (p : Params) : (s.setFlagThenReg f x b).readByte c p = s.readByte c p := rfl

/-! ## loadBlock -/

@[simp] theorem State.loadBlock_i (s : State) (x : Reg) (a : Nat) (p : Params) : (s.loadBlock x a p).i = s.i := rfl
@[simp] theorem State.loadBlock_dt (s : State) (x : Reg) (a : Nat) (p : Params) : (s.loadBlock x a p).dt = s.dt := rfl
@[simp] theorem State.loadBlock_st (s : State) (x : Reg) (a : Nat) (p : Params) : (s.loadBlock x a p).st = s.st := rfl
@[simp] theorem State.loadBlock_sp (s : State) (x : Reg) (a : Nat) (p : Params) : (s.loadBlock x a p).sp = s.sp := rfl
@[simp] theorem State.loadBlock_pc (s : State) (x : Reg) (a : Nat) (p : Params) : (s.loadBlock x a p).pc = s.pc := rfl
@[simp] theorem State.loadBlock_stack (s : State) (x : Reg) (a : Nat) (p : Params) : (s.loadBlock x a p).stack = s.stack := rfl
@[simp] theorem State.loadBlock_mem (s : State) (x : Reg) (a : Nat) (p : Params) : (s.loadBlock x a p).mem = s.mem := rfl
@[simp] theorem State.loadBlock_display (s : State) (x : Reg) (a : Nat) (p : Params) : (s.loadBlock x a p).display = s.display := rfl
@[simp] theorem State.loadBlock_diagLog (s : State) (x : Reg) (a : Nat) (p : Params) : (s.loadBlock x a p).diagLog = s.diagLog := rfl
@[simp] theorem State.loadBlock_keyTape (s : State) (x : Reg) (a : Nat) (p : Params) : (s.loadBlock x a p).keyTape = s.keyTape := rfl
@[simp] theorem State.loadBlock_keySamples (s : State) (x : Reg) (a : Nat) (p : Params) : (s.loadBlock x a p).keySamples = s.keySamples := rfl
@[simp] theorem State.loadBlock_rndTape (s : State) (x : Reg) (a : Nat) (p : Params) : (s.loadBlock x a p).rndTape = s.rndTape := rfl
@[simp] theorem State.loadBlock_rndDraws (s : State) (x : Reg) (a : Nat) (p : Params) : (s.loadBlock x a p).rndDraws = s.rndDraws := rfl
@[simp] theorem State.loadBlock_hostOps (s : State) (x : Reg) (a : Nat) (p : Params) : (s.loadBlock x a p).hostOps = s.hostOps := rfl
@[simp] theorem State.loadBlock_slot (s : State) (x : Reg) (a : Nat) (p : Params) (j : StackPtr) : (s.loadBlock x a p).slot j = s.slot j := rfl
@[simp] theorem State.loadBlock_readByte (s : State) (x : Reg) (a : Nat) (p : Params) (c : Nat) (r : Params) : (s.loadBlock x a p).readByte c r = s.readByte c r := rfl

/-! ## unimplemented -/

@[simp] theorem State.unimplemented_v (s : State) (w : Word) (p : Params) : (s.unimplemented w p).v = s.v := rfl
@[simp] theorem State.unimplemented_i (s : State) (w : Word) (p : Params) : (s.unimplemented w p).i = s.i := rfl
@[simp] theorem State.unimplemented_dt (s : State) (w : Word) (p : Params) : (s.unimplemented w p).dt = s.dt := rfl
@[simp] theorem State.unimplemented_st (s : State) (w : Word) (p : Params) : (s.unimplemented w p).st = s.st := rfl
@[simp] theorem State.unimplemented_sp (s : State) (w : Word) (p : Params) : (s.unimplemented w p).sp = s.sp := rfl
@[simp] theorem State.unimplemented_stack (s : State) (w : Word) (p : Params) : (s.unimplemented w p).stack = s.stack := rfl
@[simp] theorem State.unimplemented_mem (s : State) (w : Word) (p : Params) : (s.unimplemented w p).mem = s.mem := rfl
@[simp] theorem State.unimplemented_display (s : State) (w : Word) (p : Params) : (s.unimplemented w p).display = s.display := rfl
@[simp] theorem State.unimplemented_diagLog (s : State) (w : Word) (p : Params) : (s.unimplemented w p).diagLog = s.diagLog ++ [DiagRecord.mk w s.pc] := rfl
@[simp] theorem State.unimplemented_keyTape (s : State) (w : Word) (p : Params) : (s.unimplemented w p).keyTape = s.keyTape := rfl
@[simp] theorem State.unimplemented_keySamples (s : State) (w : Word) (p : Params) : (s.unimplemented w p).keySamples = s.keySamples := rfl
@[simp] theorem State.unimplemented_rndTape (s : State) (w : Word) (p : Params) : (s.unimplemented w p).rndTape = s.rndTape := rfl
@[simp] theorem State.unimplemented_rndDraws (s : State) (w : Word) (p : Params) : (s.unimplemented w p).rndDraws = s.rndDraws := rfl
@[simp] theorem State.unimplemented_hostOps (s : State) (w : Word) (p : Params) : (s.unimplemented w p).hostOps = s.hostOps := rfl
@[simp] theorem State.unimplemented_reg (s : State) (w : Word) (p : Params) (y : Reg) : (s.unimplemented w p).reg y = s.reg y := rfl
@[simp] theorem State.unimplemented_slot (s : State) (w : Word) (p : Params) (j : StackPtr) : (s.unimplemented w p).slot j = s.slot j := rfl
@[simp] theorem State.unimplemented_readByte (s : State) (w : Word) (p : Params) (c : Nat) (r : Params) : (s.unimplemented w p).readByte c r = s.readByte c r := rfl

/-! ## timerTick -/

@[simp] theorem State.timerTick_v (s : State) : (s.timerTick).v = s.v := rfl
@[simp] theorem State.timerTick_i (s : State) : (s.timerTick).i = s.i := rfl
@[simp] theorem State.timerTick_dt (s : State) : (s.timerTick).dt = countDown s.dt := rfl
@[simp] theorem State.timerTick_st (s : State) : (s.timerTick).st = countDown s.st := rfl
@[simp] theorem State.timerTick_sp (s : State) : (s.timerTick).sp = s.sp := rfl
@[simp] theorem State.timerTick_pc (s : State) : (s.timerTick).pc = s.pc := rfl
@[simp] theorem State.timerTick_stack (s : State) : (s.timerTick).stack = s.stack := rfl
@[simp] theorem State.timerTick_mem (s : State) : (s.timerTick).mem = s.mem := rfl
@[simp] theorem State.timerTick_display (s : State) : (s.timerTick).display = s.display := rfl
@[simp] theorem State.timerTick_diagLog (s : State) : (s.timerTick).diagLog = s.diagLog := rfl
@[simp] theorem State.timerTick_keyTape (s : State) : (s.timerTick).keyTape = s.keyTape := rfl
@[simp] theorem State.timerTick_keySamples (s : State) : (s.timerTick).keySamples = s.keySamples := rfl
@[simp] theorem State.timerTick_rndTape (s : State) : (s.timerTick).rndTape = s.rndTape := rfl
@[simp] theorem State.timerTick_rndDraws (s : State) : (s.timerTick).rndDraws = s.rndDraws := rfl
@[simp] theorem State.timerTick_hostOps (s : State) : (s.timerTick).hostOps = s.hostOps := rfl
@[simp] theorem State.timerTick_reg (s : State) (y : Reg) : (s.timerTick).reg y = s.reg y := rfl
@[simp] theorem State.timerTick_slot (s : State) (j : StackPtr) : (s.timerTick).slot j = s.slot j := rfl
@[simp] theorem State.timerTick_readByte (s : State) (c : Nat) (p : Params) : (s.timerTick).readByte c p = s.readByte c p := rfl

end Sys2Proof.Machine
end

