-- ==== Sys2Proof/Laws/DisplayCells.lean ====
section
/-! SUPPORT. Display cells: a read after a write, a blank display, and that every write keeps the canonical form (R177,
R175, R29), under every configuration. -/

namespace Sys2Proof.Machine

theorem Display.mem_erase (d : Display) (c k : Nat × Nat) : k ∈ d.erase c ↔ k ∈ d ∧ k ≠ c := by
  simp [Display.erase]

theorem Display.mem_insert (d : Display) (c k : Nat × Nat) : k ∈ Display.insert c d ↔ k = c ∨ k ∈ d := by
  induction d with
  | nil => simp [Display.insert]
  | cons j rest ih =>
    simp only [Display.insert]
    split
    · simp
    · simp only [List.mem_cons, ih]; tauto

/-- A write turns exactly the cell it wraps to, whatever the dimensions. -/
theorem Display.cell_setCell_for (p : Params) (d : Display) (x y cx cy : Nat) (b : Bool) :
    Display.cell (Display.setCell d x y b p) cx cy p =
      if x % p.lw = cx % p.lw ∧ y % p.lh = cy % p.lh then b else Display.cell d cx cy p := by
  have hk : (x % p.lw = cx % p.lw ∧ y % p.lh = cy % p.lh) ↔ cellAt cx cy p = cellAt x y p := by
    simp only [cellAt, Prod.mk.injEq]; omega
  simp only [hk, Display.cell, Display.setCell, List.contains_eq_mem]
  cases b <;> by_cases h : cellAt cx cy p = cellAt x y p <;> simp [Display.mem_insert, Display.mem_erase, h]

theorem Display.cell_setCell (d : Display) (x y cx cy : Nat) (b : Bool) :
    Display.cell (Display.setCell d x y b) cx cy =
      if x % 64 = cx % 64 ∧ y % 32 = cy % 32 then b else Display.cell d cx cy :=
  Display.cell_setCell_for hardware d x y cx cy b

theorem Display.cell_blank (x y : Nat) {p : Params} : Display.cell Display.blank x y p = false := rfl

/-- A cell depends on its coordinates modulo the dimensions. -/
theorem Display.cell_mod_for (p : Params) (d : Display) (x y : Nat) :
    Display.cell d (x % p.lw) (y % p.lh) p = Display.cell d x y p := by
  simp [Display.cell, cellAt]

theorem Display.cell_mod (d : Display) (x y : Nat) : Display.cell d (x % 64) (y % 32) = Display.cell d x y :=
  Display.cell_mod_for hardware d x y

/-! ## The canonical form -/

theorem Display.wf_iff (d : Display) (p : Params) :
    Display.wf d p = true ↔
      (∀ c ∈ d, c.1 < p.lh ∧ c.2 < p.lw) ∧ d.Pairwise fun c k => cellBefore c k = true := by
  simp [Display.wf]

theorem cellBefore_trans {a b c : Nat × Nat} (h : cellBefore a b = true) (h' : cellBefore b c = true) :
    cellBefore a c = true := by
  simp only [cellBefore, Bool.or_eq_true, Bool.and_eq_true, decide_eq_true_eq, beq_iff_eq] at *; omega

theorem cellBefore_total {a b : Nat × Nat} (h : ¬ cellBefore a b = true) (hne : b ≠ a) : cellBefore b a = true := by
  simp only [cellBefore, Bool.or_eq_true, Bool.and_eq_true, decide_eq_true_eq, beq_iff_eq, ne_eq, Prod.ext_iff] at *
  omega

theorem Display.pairwise_insert {d : Display} {c : Nat × Nat} (hc : c ∉ d)
    (hd : d.Pairwise fun c k => cellBefore c k = true) :
    (Display.insert c d).Pairwise fun c k => cellBefore c k = true := by
  induction d with
  | nil => simp [Display.insert]
  | cons j rest ih =>
    obtain ⟨hj, hr⟩ := List.pairwise_cons.mp hd
    simp only [List.mem_cons, not_or] at hc
    simp only [Display.insert]
    split
    · rename_i h
      refine List.pairwise_cons.mpr ⟨fun k hk => ?_, hd⟩
      rcases List.mem_cons.mp hk with rfl | hk
      · exact h
      · exact cellBefore_trans h (hj k hk)
    · rename_i h
      refine List.pairwise_cons.mpr ⟨fun k hk => ?_, ih hc.2 hr⟩
      rcases (Display.mem_insert _ _ _).mp hk with rfl | hk
      · exact cellBefore_total h (Ne.symm hc.1)
      · exact hj k hk

/-- A write to a display with at least one row and one column keeps the canonical form. -/
theorem Display.wf_setCell {d : Display} {p : Params} (x y : Nat) (b : Bool) (hw : 1 ≤ p.lw) (hh : 1 ≤ p.lh)
    (hd : Display.wf d p = true) : Display.wf (Display.setCell d x y b p) p = true := by
  obtain ⟨hg, hp⟩ := (Display.wf_iff d p).mp hd
  have he : (∀ c ∈ d.erase (cellAt x y p), c.1 < p.lh ∧ c.2 < p.lw) ∧
      (d.erase (cellAt x y p)).Pairwise fun c k => cellBefore c k = true :=
    ⟨fun c hc => hg c ((Display.mem_erase _ _ _).mp hc).1, hp.filter _⟩
  rw [Display.wf_iff]
  unfold Display.setCell
  split
  · refine ⟨fun c hc => ?_, Display.pairwise_insert (by simp [Display.mem_erase]) he.2⟩
    rcases (Display.mem_insert _ _ _).mp hc with rfl | hc
    · exact ⟨Nat.mod_lt _ hh, Nat.mod_lt _ hw⟩
    · exact he.1 c hc
  · exact he

end Sys2Proof.Machine
end

