-- ==== Sys2Proof/Laws/Params.lean ====
section
/-! SUPPORT. The configuration of this hardware: each parameter's value (R5), that it is a valid one, and the same hardware
with the other `PC_QUIRK`. The simp set turns a parameter of `hardware` into its number. -/

namespace Sys2Proof.Machine

@[simp] theorem hardware_nreg : hardware.nreg = 16 := rfl
@[simp] theorem hardware_xlen : hardware.xlen = 8 := rfl
@[simp] theorem hardware_ilen : hardware.ilen = 12 := rfl
@[simp] theorem hardware_memSize : hardware.memSize = 4096 := rfl
@[simp] theorem hardware_pclen : hardware.pclen = 16 := rfl
@[simp] theorem hardware_stackSlots : hardware.stackSlots = 16 := rfl
@[simp] theorem hardware_splen : hardware.splen = 4 := rfl
@[simp] theorem hardware_progBase : hardware.progBase = 0x200 := rfl
@[simp] theorem hardware_fontBase : hardware.fontBase = 0 := rfl
@[simp] theorem hardware_fontStride : hardware.fontStride = 5 := rfl
@[simp] theorem hardware_font : hardware.font = Config.font := rfl
@[simp] theorem hardware_lw : hardware.lw = 64 := rfl
@[simp] theorem hardware_lh : hardware.lh = 32 := rfl
@[simp] theorem hardware_pcQuirk : hardware.pcQuirk = false := rfl

@[simp] theorem hardwareWithQuirk_nreg (q : Bool) : (hardwareWithQuirk q).nreg = 16 := rfl
@[simp] theorem hardwareWithQuirk_xlen (q : Bool) : (hardwareWithQuirk q).xlen = 8 := rfl
@[simp] theorem hardwareWithQuirk_ilen (q : Bool) : (hardwareWithQuirk q).ilen = 12 := rfl
@[simp] theorem hardwareWithQuirk_memSize (q : Bool) : (hardwareWithQuirk q).memSize = 4096 := rfl
@[simp] theorem hardwareWithQuirk_pclen (q : Bool) : (hardwareWithQuirk q).pclen = 16 := rfl
@[simp] theorem hardwareWithQuirk_stackSlots (q : Bool) : (hardwareWithQuirk q).stackSlots = 16 := rfl
@[simp] theorem hardwareWithQuirk_splen (q : Bool) : (hardwareWithQuirk q).splen = 4 := rfl
@[simp] theorem hardwareWithQuirk_progBase (q : Bool) : (hardwareWithQuirk q).progBase = 0x200 := rfl
@[simp] theorem hardwareWithQuirk_fontBase (q : Bool) : (hardwareWithQuirk q).fontBase = 0 := rfl
@[simp] theorem hardwareWithQuirk_fontStride (q : Bool) : (hardwareWithQuirk q).fontStride = 5 := rfl
@[simp] theorem hardwareWithQuirk_font (q : Bool) : (hardwareWithQuirk q).font = Config.font := rfl
@[simp] theorem hardwareWithQuirk_lw (q : Bool) : (hardwareWithQuirk q).lw = 64 := rfl
@[simp] theorem hardwareWithQuirk_lh (q : Bool) : (hardwareWithQuirk q).lh = 32 := rfl
@[simp] theorem hardwareWithQuirk_pcQuirk (q : Bool) : (hardwareWithQuirk q).pcQuirk = q := rfl

/-- R5: the configuration of this hardware is a valid one. -/
theorem hardware_valid : hardware.Valid where
  memAboveProgram := by decide
  memAddressable := by decide
  fontBelowProgram := by decide
  someColumn := by decide
  someRow := by decide
  nreg := rfl
  xlen := rfl
  ilen := rfl
  pclen := rfl
  splen := rfl
  someSlot := by decide
  slotsInReach := by decide
  programInMemory := by decide
  glyphBytes := rfl
  fontBytes := by decide

theorem hardwareWithQuirk_false : hardwareWithQuirk false = hardware := rfl

/-- R5: either setting of `PC_QUIRK` is a valid configuration. -/
theorem hardwareWithQuirk_valid (q : Bool) : (hardwareWithQuirk q).Valid :=
  match hardware_valid with
  | ⟨⟨a, b, c, d, e⟩, ⟨f, g, h, k, l⟩, m, n, o, r, u⟩ => ⟨⟨a, b, c, d, e⟩, ⟨f, g, h, k, l⟩, m, n, o, r, u⟩

end Sys2Proof.Machine
end

