-- ==== Sys2Proof/Laws/Registers.lean ====
section
/-! SUPPORT. Reading a register or a stack slot after a write, and the pc after the three ways a handler leaves it. -/

namespace Sys2Proof.Machine

theorem State.reg_setReg (s : State) (x y : Reg) (b : Byte) :
    (s.setReg x b).reg y = if x = y then b else s.reg y := by
  simp [State.reg, Vector.getElem_set, Fin.val_inj]

@[simp] theorem State.reg_setReg_self (s : State) (x : Reg) (b : Byte) : (s.setReg x b).reg x = b := by
  simp [State.reg_setReg]

theorem State.reg_setFlag (s : State) (f : Bool) (y : Reg) :
    (s.setFlag f).reg y = if y = 15 then flagByte f else s.reg y := by
  simp [State.setFlag, State.reg_setReg, vFlag, eq_comm]

/-- R143: the result in Vx, the flag in VF when `x` is another register. -/
theorem State.reg_setFlagThenReg (s : State) (f : Bool) (x y : Reg) (b : Byte) :
    (s.setFlagThenReg f x b).reg y = if x = y then b else if y = 15 then flagByte f else s.reg y := by
  simp [State.setFlagThenReg, State.reg_setReg, State.reg_setFlag]

/-- R155: the registers after a block load. -/
theorem State.reg_loadBlock (s : State) (x k : Reg) (a : Nat) {p : Params} :
    (s.loadBlock x a p).reg k = if k ≤ x then s.readByte (a + k.val) p else s.reg k := by
  simp only [State.reg, State.loadBlock, Vector.getElem_ofFn, Fin.le_def]

theorem State.slot_setSlot (s : State) (k j : StackPtr) (w : Word) :
    (s.setSlot k w).slot j = if k = j then w else s.slot j := by
  simp [State.slot, State.setSlot, Vector.getElem_set, BitVec.toNat_inj]

/-- R103: an instruction that does not touch the pc ends at `ia + 2` under either setting of `PC_QUIRK`. -/
@[simp] theorem State.advance_pc (s : State) (q : Bool) : (s.advance q).pc = s.pc + 2 := by
  cases q <;> simp [State.advance, handlerPc, postAdd]

/-- R120: a skip ends at `ia + 4` or `ia + 2` under either setting of `PC_QUIRK`. -/
@[simp] theorem State.skipIf_pc (s : State) (b q : Bool) :
    (s.skipIf b q).pc = if b then s.pc + 4 else s.pc + 2 := by
  cases q <;> cases b <;> simp [State.skipIf, handlerPc, postAdd, BitVec.add_assoc]

@[simp] theorem State.unimplemented_pc (s : State) (w : Word) (p : Params) : (s.unimplemented w p).pc = s.pc + 2 := by
  simp [State.unimplemented]

theorem lowNibble_val (b : Byte) : (lowNibble b).val = b.toNat % 16 := by
  simp [lowNibble, BitVec.extractLsb']

theorem pcOfAddr_toNat (nnn : Addr) : (pcOfAddr nnn).toNat = nnn.toNat := by
  have := nnn.isLt
  simp [pcOfAddr]; omega

theorem pcOfByte_toNat (b : Byte) : (pcOfByte b).toNat = b.toNat := by
  have := b.isLt
  simp [pcOfByte]; omega

/-- R152: glyph addresses do not wrap, in any valid configuration. -/
theorem glyphAddress_toNat_for {p : Params} (hp : p.Valid) (d : Fin 16) :
    (glyphAddress d p).toNat = p.fontBase + p.fontStride * d.val := by
  have := d.isLt
  have := hp.memAddressable
  have := hp.fontBelowProgram
  have := hp.programInMemory
  simp only [glyphAddress, hp.glyphBytes, BitVec.toNat_ofNat]; omega

theorem glyphAddress_toNat (d : Fin 16) : (glyphAddress d).toNat = Config.fontBase + 5 * d.val :=
  glyphAddress_toNat_for hardware_valid d

end Sys2Proof.Machine
end

