-- ==== Sys2Proof/Laws/Draw.lean ====
section
/-! SUPPORT. The draw, piece by piece (R176): what one plotted pixel does to each cell and to the collision, how a sprite
grows by a row, and the two things `execDrw` can do. -/

namespace Sys2Proof.Machine

/-- A pixel's column is a cell's column exactly when it is the cell's distance from the left edge. -/
theorem spriteColumn_eq_for {p : Params} (vx cx c : Nat) (hc : c < p.lw) :
    (vx + c) % p.lw = cx % p.lw ↔ spriteColumn vx cx p = c := by
  unfold spriteColumn
  have hv := Nat.mod_lt vx (Nat.zero_lt_of_lt hc)
  constructor
  · intro h
    rw [Nat.add_mod, ← h, ← Nat.add_mod, show vx + c + (p.lw - vx % p.lw) = c + (vx - vx % p.lw) + p.lw by
      have := Nat.mod_le vx p.lw; omega, Nat.add_mod_right, Nat.add_mod,
      Nat.mod_eq_zero_of_dvd (Nat.dvd_sub_mod vx), Nat.add_zero, Nat.mod_mod, Nat.mod_eq_of_lt hc]
  · intro h
    rw [← h, Nat.add_mod_mod, ← Nat.add_assoc, show vx + cx + (p.lw - vx % p.lw) = cx + (vx - vx % p.lw) + p.lw by
      have := Nat.mod_le vx p.lw; omega, Nat.add_mod_right, Nat.add_mod,
      Nat.mod_eq_zero_of_dvd (Nat.dvd_sub_mod vx), Nat.add_zero, Nat.mod_mod]

/-- A pixel's row is a cell's row exactly when it is the cell's distance from the top edge. -/
theorem spriteRow_eq_for {p : Params} (vy cy c : Nat) (hc : c < p.lh) :
    (vy + c) % p.lh = cy % p.lh ↔ spriteRow vy cy p = c := by
  unfold spriteRow
  have hv := Nat.mod_lt vy (Nat.zero_lt_of_lt hc)
  constructor
  · intro h
    rw [Nat.add_mod, ← h, ← Nat.add_mod, show vy + c + (p.lh - vy % p.lh) = c + (vy - vy % p.lh) + p.lh by
      have := Nat.mod_le vy p.lh; omega, Nat.add_mod_right, Nat.add_mod,
      Nat.mod_eq_zero_of_dvd (Nat.dvd_sub_mod vy), Nat.add_zero, Nat.mod_mod, Nat.mod_eq_of_lt hc]
  · intro h
    rw [← h, Nat.add_mod_mod, ← Nat.add_assoc, show vy + cy + (p.lh - vy % p.lh) = cy + (vy - vy % p.lh) + p.lh by
      have := Nat.mod_le vy p.lh; omega, Nat.add_mod_right, Nat.add_mod,
      Nat.mod_eq_zero_of_dvd (Nat.dvd_sub_mod vy), Nat.add_zero, Nat.mod_mod]

/-- One plotted pixel: XOR into its own cell, nothing else. -/
theorem cell_plotPixel {p : Params} (vx vy : Nat) (b : Byte) (row col cx cy : Nat) (acc : Display × Bool)
    (hr : row < p.lh) (hc : col < p.lw) :
    Display.cell (plotPixel vx vy b row acc col p).1 cx cy p =
      (Display.cell acc.1 cx cy p ^^
        (decide (spriteRow vy cy p = row) && decide (spriteColumn vx cx p = col) && b.getLsbD (7 - col))) := by
  simp only [plotPixel, Display.cell_setCell_for, spriteColumn_eq_for _ _ _ hc, spriteRow_eq_for _ _ _ hr]
  by_cases h1 : spriteColumn vx cx p = col <;> by_cases h2 : spriteRow vy cy p = row <;> simp [h1, h2]
  rw [← Display.cell_mod_for p _ (vx + col) (vy + row), (spriteColumn_eq_for vx cx col hc).mpr h1,
    (spriteRow_eq_for vy cy row hr).mpr h2, Display.cell_mod_for]

/-- One plotted pixel: the collision, once noted, stays; it is noted when the cell was on and the bit is set. -/
theorem collision_plotPixel {p : Params} (vx vy : Nat) (b : Byte) (row col : Nat) (acc : Display × Bool) :
    (plotPixel vx vy b row acc col p).2 =
      (acc.2 || (Display.cell acc.1 (vx + col) (vy + row) p && b.getLsbD (7 - col))) := rfl

/-- A sprite of `n + 1` rows is the sprite of `n` rows and then one more. -/
theorem drawSprite_succ {p : Params} (m : Memory) (a vx vy n : Nat) (d : Display) :
    drawSprite m a vx vy (n + 1) d p = drawRow vx vy (m.read (a + n) p) n (drawSprite m a vx vy n d p) p := by
  simp only [drawSprite, List.range_succ, List.foldl_append, List.foldl_cons, List.foldl_nil]

/-- The bit a sprite of `n + 1` rows puts on a cell. -/
theorem spriteBit_succ {p : Params} (m : Memory) (a vx vy n cx cy : Nat) :
    spriteBit m a vx vy (n + 1) cx cy p =
      (spriteBit m a vx vy n cx cy p ^^ (decide (spriteRow vy cy p = n) && decide (spriteColumn vx cx p < 8) &&
        (m.read (a + n) p).getLsbD (7 - spriteColumn vx cx p))) := by
  unfold spriteBit
  by_cases h : spriteRow vy cy p = n
  · simp [h]
  · have : (spriteRow vy cy p < n + 1) = (spriteRow vy cy p < n) := by rw [eq_iff_iff]; omega
    simp [h, this]

/-- The canonical form of the display through a whole sprite. -/
theorem wf_drawSprite {p : Params} (m : Memory) (a vx vy n : Nat) {d : Display} (hw : 1 ≤ p.lw) (hh : 1 ≤ p.lh)
    (hd : Display.wf d p = true) : Display.wf (drawSprite m a vx vy n d p).1 p = true := by
  have row : ∀ (k r : Nat) (b : Byte) (acc : Display × Bool), Display.wf acc.1 p = true →
      Display.wf ((List.range k).foldl (fun acc col => plotPixel vx vy b r acc col p) acc).1 p = true := by
    intro k r b acc h
    induction k with
    | zero => exact h
    | succ k ih =>
      rw [List.range_succ, List.foldl_append]
      exact Display.wf_setCell _ _ _ hw hh ih
  induction n with
  | zero => exact hd
  | succ n ih => rw [drawSprite_succ]; exact row 8 _ _ _ ih

/-- R176: the two things a draw can do, under any configuration. -/
theorem execDrw_cases (x y : Reg) (n : Nat) (s : State) (p : Params := hardware) :
    (1 ≤ n ∧ p.memSize ≤ s.i.toNat + n - 1 ∧
      execDrw x y n s p = .fault (.memoryFault .load (s.i.toNat + n - 1) s.pc)) ∨
    ((n = 0 ∨ s.i.toNat + n - 1 < p.memSize) ∧
      execDrw x y n s p = .next (({ s with
          display := (drawSprite s.mem (s.ea 0) (s.reg x).toNat (s.reg y).toNat n s.display p).1 }.setFlag
        (drawSprite s.mem (s.ea 0) (s.reg x).toNat (s.reg y).toNat n s.display p).2).advance p.pcQuirk)) := by
  unfold execDrw
  split
  · rename_i h
    have h1 := h.1
    have h2 : p.memSize ≤ s.i.toNat + (n - 1) := h.2
    have e : s.ea (n - 1) = s.i.toNat + n - 1 := by simp only [State.ea]; omega
    exact .inl ⟨h1, by omega, by rw [e]; rfl⟩
  · rename_i h
    have h2 : ¬ (1 ≤ n ∧ p.memSize ≤ s.i.toNat + (n - 1)) := h
    exact .inr ⟨by omega, rfl⟩

end Sys2Proof.Machine
end

