-- ==== Sys2Proof/Laws/Memory.lean ====
section
/-! SUPPORT. Memory: a read after a write, and that every write inside memory keeps the canonical form (log 24). -/

namespace Sys2Proof.Machine

theorem Memory.read_erase (m : Memory) (a c : Nat) {p : Params} :
    (m.erase a).read c p = if c = a then resetByte a p else m.read c p := by
  induction m with
  | nil => by_cases h : c = a <;> simp [Memory.erase, Memory.read, h]
  | cons e rest ih =>
    obtain ⟨k, b⟩ := e
    simp only [Memory.erase] at ih ⊢
    by_cases hk : k = a
    · subst hk
      simp only [List.filter_cons, bne_self_eq_false, Bool.false_eq_true, if_false, ih, Memory.read]
      by_cases hc : c = k <;> simp [hc, eq_comm]
    · have hne : (k != a) = true := by simpa using hk
      simp only [List.filter_cons, hne, if_true, Memory.read, ih]
      by_cases hkc : k = c
      · subst hkc; simp [hk]
      · simp [hkc]

theorem Memory.read_insert_other (m : Memory) (a c : Nat) (b : Byte) (h : c ≠ a) {p : Params} :
    (Memory.insert a b m).read c p = m.read c p := by
  induction m with
  | nil => simp [Memory.insert, Memory.read, h.symm]
  | cons e rest ih =>
    obtain ⟨k, d⟩ := e
    simp only [Memory.insert]
    split
    · simp [Memory.read, h.symm]
    · simp [Memory.read, ih]

theorem Memory.read_insert_self (m : Memory) (a : Nat) (b : Byte) (h : ∀ e ∈ m, e.1 ≠ a) {p : Params} :
    (Memory.insert a b m).read a p = b := by
  induction m with
  | nil => simp [Memory.insert, Memory.read]
  | cons e rest ih =>
    obtain ⟨k, d⟩ := e
    simp only [List.mem_cons, forall_eq_or_imp] at h
    simp only [Memory.insert]
    split
    · simp [Memory.read]
    · simp [Memory.read, h.1, ih h.2]

/-- R60 (3): a byte reads as what was last written to it, and a write leaves every other byte alone. -/
theorem Memory.read_write (m : Memory) (a c : Nat) (b : Byte) {p : Params} :
    (m.write a b p).read c p = if c = a then b else m.read c p := by
  unfold Memory.write
  split
  · rename_i hb
    rw [Memory.read_erase]; simp [hb]
  · by_cases hc : c = a
    · subst hc
      rw [Memory.read_insert_self _ _ _ (by simp [Memory.erase])]; simp
    · rw [Memory.read_insert_other _ _ _ _ hc, Memory.read_erase]; simp [hc]

/-- What a byte reads as after some bytes are stored from `a` on. -/
theorem Memory.read_writeBytes (m : Memory) (a c : Nat) (bs : List Byte) {p : Params} :
    (m.writeBytes a bs p).read c p = if a ≤ c then (bs[c - a]?).getD (m.read c p) else m.read c p := by
  induction bs generalizing m a with
  | nil => simp [Memory.writeBytes]
  | cons b bs ih =>
    simp only [Memory.writeBytes, ih, Memory.read_write]
    by_cases h : a = c
    · subst h; simp
    · by_cases h2 : a ≤ c
      · have h3 : a + 1 ≤ c := by omega
        have h4 : c - a = (c - (a + 1)) + 1 := by omega
        simp [h2, h3, h4, Ne.symm h]
      · have h3 : ¬ a + 1 ≤ c := by omega
        simp [h2, h3, Ne.symm h]

/-- A read depends on the configuration only through the font table. -/
theorem Memory.read_congr {p r : Params} (hb : p.fontBase = r.fontBase) (hf : p.font = r.font) (m : Memory) (a : Nat) :
    m.read a p = m.read a r := by
  induction m with
  | nil => simp only [Memory.read, resetByte, hb, hf]
  | cons e rest ih => simp only [Memory.read, ih]

@[simp] theorem State.readByte_hardwareWithQuirk (q : Bool) (s : State) (a : Nat) :
    s.readByte a (hardwareWithQuirk q) = s.readByte a :=
  Memory.read_congr (p := hardwareWithQuirk q) (r := hardware) rfl rfl s.mem a

@[simp] theorem State.fetchWord_hardwareWithQuirk (q : Bool) (s : State) :
    s.fetchWord (hardwareWithQuirk q) = s.fetchWord := by
  simp [State.fetchWord]

@[simp] theorem State.fetchable_hardwareWithQuirk (q : Bool) (s : State) :
    s.fetchable (hardwareWithQuirk q) = s.fetchable := rfl

theorem Memory.wfFrom_mono {m : Memory} {lo lo' : Nat} {p : Params} (h : lo' ≤ lo) (hw : Memory.wfFrom lo m p = true) :
    Memory.wfFrom lo' m p = true := by
  cases m with
  | nil => rfl
  | cons e rest =>
    obtain ⟨k, b⟩ := e
    simp only [Memory.wfFrom, Bool.and_eq_true, decide_eq_true_eq] at hw ⊢
    exact ⟨⟨⟨by omega, hw.1.1.2⟩, hw.1.2⟩, hw.2⟩

theorem Memory.wfFrom_erase {m : Memory} {lo : Nat} {p : Params} (a : Nat) (hw : Memory.wfFrom lo m p = true) :
    Memory.wfFrom lo (m.erase a) p = true := by
  induction m generalizing lo with
  | nil => rfl
  | cons e rest ih =>
    obtain ⟨k, b⟩ := e
    simp only [Memory.wfFrom, Bool.and_eq_true, decide_eq_true_eq] at hw
    have hr := ih hw.2
    simp only [Memory.erase, List.filter_cons] at hr ⊢
    split
    · simp only [Memory.wfFrom, Bool.and_eq_true, decide_eq_true_eq]; exact ⟨hw.1, hr⟩
    · exact Memory.wfFrom_mono (by omega) hr

theorem Memory.wfFrom_insert {m : Memory} {lo a : Nat} {b : Byte} {p : Params} (hlo : lo ≤ a) (ha : a < p.memSize)
    (hb : b ≠ resetByte a p) (hn : ∀ e ∈ m, e.1 ≠ a) (hw : Memory.wfFrom lo m p = true) :
    Memory.wfFrom lo (Memory.insert a b m) p = true := by
  induction m generalizing lo with
  | nil => simpa [Memory.insert, Memory.wfFrom, hlo, hb] using ha
  | cons e rest ih =>
    obtain ⟨k, d⟩ := e
    simp only [List.mem_cons, forall_eq_or_imp] at hn
    simp only [Memory.wfFrom, Bool.and_eq_true, decide_eq_true_eq] at hw
    simp only [Memory.insert]
    split
    · simp only [Memory.wfFrom, Bool.and_eq_true, decide_eq_true_eq, bne_iff_ne, ne_eq]
      exact ⟨⟨⟨hlo, ha⟩, hb⟩, ⟨⟨by omega, hw.1.1.2⟩, by simpa using hw.1.2⟩, hw.2⟩
    · simp only [Memory.wfFrom, Bool.and_eq_true, decide_eq_true_eq]
      exact ⟨hw.1, ih (by omega) hn.2 hw.2⟩

/-- A write inside memory keeps the canonical form. -/
theorem Memory.wf_write {m : Memory} {a : Nat} {p : Params} (b : Byte) (ha : a < p.memSize) (hw : m.wf p = true) :
    (m.write a b p).wf p = true := by
  unfold Memory.write Memory.wf
  split
  · exact Memory.wfFrom_erase a hw
  · rename_i hb
    exact Memory.wfFrom_insert (Nat.zero_le _) ha hb (by simp [Memory.erase]) (Memory.wfFrom_erase a hw)

/-- Writes inside memory keep the canonical form. -/
theorem Memory.wf_writeBytes {m : Memory} {a : Nat} {bs : List Byte} {p : Params} (ha : a + bs.length ≤ p.memSize)
    (hw : m.wf p = true) : (m.writeBytes a bs p).wf p = true := by
  induction bs generalizing m a with
  | nil => exact hw
  | cons b bs ih =>
    simp only [List.length_cons] at ha
    exact ih (by omega) (Memory.wf_write b (by omega) hw)

/-- What a state's byte reads as after a store of some bytes. -/
theorem State.readByte_writeBytes (s : State) (a c : Nat) (bs : List Byte) {p : Params} :
    (s.writeBytes a bs p).readByte c p = if a ≤ c then (bs[c - a]?).getD (s.readByte c p) else s.readByte c p :=
  Memory.read_writeBytes s.mem a c bs

/-- R154: the bytes a block store writes. -/
theorem State.regBlock_get (s : State) (x k : Reg) (h : k ≤ x) : (s.regBlock x)[k.val]? = some (s.reg k) := by
  have hk : k.val < x.val + 1 := by have := Fin.le_def.mp h; omega
  simp [State.regBlock, State.reg, hk]

theorem State.regBlock_length (s : State) (x : Reg) : (s.regBlock x).length = x.val + 1 := by
  simp [State.regBlock]

end Sys2Proof.Machine
end

