-- ==== Sys2Proof/Laws/PerInstr.lean ====
section
/-! SUPPORT. Facts about every instruction as syntax, one lemma per constructor. -/

namespace Sys2Proof.Laws

/-! ## The masks of R74 on the formats of R72 -/

theorem and_ones (op : BitVec 4) : op &&& 0xF#4 = op := by revert op; decide

theorem and_zeros (z : Reg) : regField z &&& 0x0#4 = regField 0 := by revert z; decide

theorem and_allOnes (kk : BitVec 8) : kk &&& 0xFF#8 = kk := by revert kk; decide

theorem maskOp_encodeNNN (op : BitVec 4) (nnn : BitVec 12) : encodeNNN op nnn &&& 0xF000 = encodeNNN op 0 := by
  have h : (op ++ nnn) &&& (0xF#4 ++ 0x000#12) = (op &&& 0xF#4) ++ (nnn &&& 0x000#12) := BitVec.and_append
  rw [and_ones, show nnn &&& 0x000#12 = 0 by simp] at h
  exact h

theorem maskOp_encodeXKK (op : BitVec 4) (x : Reg) (kk : BitVec 8) : encodeXKK op x kk &&& 0xF000 = encodeXKK op 0 0 :=
  maskOp_encodeNNN op (regField x ++ kk)

theorem maskOp_encodeXYN (op : BitVec 4) (x y : Reg) (n : BitVec 4) :
    encodeXYN op x y n &&& 0xF000 = encodeXYN op 0 0 0 :=
  maskOp_encodeNNN op (regField x ++ (regField y ++ n))

theorem maskOpKk_encodeXKK (op : BitVec 4) (x : Reg) (kk : BitVec 8) :
    encodeXKK op x kk &&& 0xF0FF = encodeXKK op 0 kk := by
  have h : (op ++ (regField x ++ kk)) &&& (0xF#4 ++ (0x0#4 ++ 0xFF#8)) =
      (op &&& 0xF#4) ++ ((regField x &&& 0x0#4) ++ (kk &&& 0xFF#8)) := by
    rw [BitVec.and_append, BitVec.and_append]
  rw [and_ones, and_zeros, and_allOnes] at h
  exact h

theorem maskOpN_encodeXYN (op : BitVec 4) (x y : Reg) (n : BitVec 4) :
    encodeXYN op x y n &&& 0xF00F = encodeXYN op 0 0 n := by
  have h : (op ++ (regField x ++ (regField y ++ n))) &&& (0xF#4 ++ (0x0#4 ++ (0x0#4 ++ 0xF#4))) =
      (op &&& 0xF#4) ++ ((regField x &&& 0x0#4) ++ ((regField y &&& 0x0#4) ++ (n &&& 0xF#4))) := by
    rw [BitVec.and_append, BitVec.and_append, BitVec.and_append]
  rw [and_ones, and_ones, and_zeros, and_zeros] at h
  exact h

/-- R74: the word of an instruction matches the instruction's row of the opcode map. -/
def RowMatch.Statement (i : Instr) : Prop := i.row.matchesWord (encode i) = true

theorem RowMatch.of_masked {i : Instr} (h : encode i &&& i.row.mask = i.row.value) : RowMatch.Statement i := by
  simp [RowMatch.Statement, OpcodeRow.matchesWord, h]

theorem RowMatch.cls : RowMatch.Statement (.cls) :=
  RowMatch.of_masked (by decide)

theorem RowMatch.ret : RowMatch.Statement (.ret) :=
  RowMatch.of_masked (by decide)

theorem RowMatch.jp (nnn : Addr) : RowMatch.Statement (.jp nnn) :=
  RowMatch.of_masked (maskOp_encodeNNN ..)

theorem RowMatch.call (nnn : Addr) : RowMatch.Statement (.call nnn) :=
  RowMatch.of_masked (maskOp_encodeNNN ..)

theorem RowMatch.seImm (x : Reg) (kk : Byte) : RowMatch.Statement (.seImm x kk) :=
  RowMatch.of_masked (maskOp_encodeXKK ..)

theorem RowMatch.sneImm (x : Reg) (kk : Byte) : RowMatch.Statement (.sneImm x kk) :=
  RowMatch.of_masked (maskOp_encodeXKK ..)

theorem RowMatch.seReg (x : Reg) (y : Reg) : RowMatch.Statement (.seReg x y) :=
  RowMatch.of_masked (maskOpN_encodeXYN ..)

theorem RowMatch.ldImm (x : Reg) (kk : Byte) : RowMatch.Statement (.ldImm x kk) :=
  RowMatch.of_masked (maskOp_encodeXKK ..)

theorem RowMatch.addImm (x : Reg) (kk : Byte) : RowMatch.Statement (.addImm x kk) :=
  RowMatch.of_masked (maskOp_encodeXKK ..)

theorem RowMatch.ldReg (x : Reg) (y : Reg) : RowMatch.Statement (.ldReg x y) :=
  RowMatch.of_masked (maskOpN_encodeXYN ..)

theorem RowMatch.orReg (x : Reg) (y : Reg) : RowMatch.Statement (.orReg x y) :=
  RowMatch.of_masked (maskOpN_encodeXYN ..)

theorem RowMatch.andReg (x : Reg) (y : Reg) : RowMatch.Statement (.andReg x y) :=
  RowMatch.of_masked (maskOpN_encodeXYN ..)

theorem RowMatch.xorReg (x : Reg) (y : Reg) : RowMatch.Statement (.xorReg x y) :=
  RowMatch.of_masked (maskOpN_encodeXYN ..)

theorem RowMatch.addReg (x : Reg) (y : Reg) : RowMatch.Statement (.addReg x y) :=
  RowMatch.of_masked (maskOpN_encodeXYN ..)

theorem RowMatch.subReg (x : Reg) (y : Reg) : RowMatch.Statement (.subReg x y) :=
  RowMatch.of_masked (maskOpN_encodeXYN ..)

theorem RowMatch.shr (x : Reg) (y : Reg) : RowMatch.Statement (.shr x y) :=
  RowMatch.of_masked (maskOpN_encodeXYN ..)

theorem RowMatch.subnReg (x : Reg) (y : Reg) : RowMatch.Statement (.subnReg x y) :=
  RowMatch.of_masked (maskOpN_encodeXYN ..)

theorem RowMatch.shl (x : Reg) (y : Reg) : RowMatch.Statement (.shl x y) :=
  RowMatch.of_masked (maskOpN_encodeXYN ..)

theorem RowMatch.sneReg (x : Reg) (y : Reg) : RowMatch.Statement (.sneReg x y) :=
  RowMatch.of_masked (maskOpN_encodeXYN ..)

theorem RowMatch.ldI (nnn : Addr) : RowMatch.Statement (.ldI nnn) :=
  RowMatch.of_masked (maskOp_encodeNNN ..)

theorem RowMatch.jpV0 (nnn : Addr) : RowMatch.Statement (.jpV0 nnn) :=
  RowMatch.of_masked (maskOp_encodeNNN ..)

theorem RowMatch.rnd (x : Reg) (kk : Byte) : RowMatch.Statement (.rnd x kk) :=
  RowMatch.of_masked (maskOp_encodeXKK ..)

theorem RowMatch.drw (x : Reg) (y : Reg) (n : Nat) : RowMatch.Statement (.drw x y n) :=
  RowMatch.of_masked (maskOp_encodeXYN ..)

theorem RowMatch.skp (x : Reg) : RowMatch.Statement (.skp x) :=
  RowMatch.of_masked (maskOpKk_encodeXKK ..)

theorem RowMatch.sknp (x : Reg) : RowMatch.Statement (.sknp x) :=
  RowMatch.of_masked (maskOpKk_encodeXKK ..)

theorem RowMatch.ldVxDt (x : Reg) : RowMatch.Statement (.ldVxDt x) :=
  RowMatch.of_masked (maskOpKk_encodeXKK ..)

theorem RowMatch.ldDtVx (x : Reg) : RowMatch.Statement (.ldDtVx x) :=
  RowMatch.of_masked (maskOpKk_encodeXKK ..)

theorem RowMatch.ldStVx (x : Reg) : RowMatch.Statement (.ldStVx x) :=
  RowMatch.of_masked (maskOpKk_encodeXKK ..)

theorem RowMatch.addI (x : Reg) : RowMatch.Statement (.addI x) :=
  RowMatch.of_masked (maskOpKk_encodeXKK ..)

theorem RowMatch.ldF (x : Reg) : RowMatch.Statement (.ldF x) :=
  RowMatch.of_masked (maskOpKk_encodeXKK ..)

theorem RowMatch.ldB (x : Reg) : RowMatch.Statement (.ldB x) :=
  RowMatch.of_masked (maskOpKk_encodeXKK ..)

theorem RowMatch.storeRegs (x : Reg) : RowMatch.Statement (.storeRegs x) :=
  RowMatch.of_masked (maskOpKk_encodeXKK ..)

theorem RowMatch.loadRegs (x : Reg) : RowMatch.Statement (.loadRegs x) :=
  RowMatch.of_masked (maskOpKk_encodeXKK ..)

end Sys2Proof.Laws
end

