-- ==== Sys2Proof/Laws/Step.lean ====
section
/-! SUPPORT. What a checked access, a tick and a step can do, said once: each later proof about them starts from one of
these case lemmas. -/

namespace Sys2Proof.Machine

/-- R58: a checked instruction answers a next state exactly when its highest address is in memory. -/
theorem State.checked_next {s t u : State} {acc : MemAccess} {last : Nat} {p : Params} :
    s.checked acc last t p = .next u ↔ last < p.memSize ∧ u = t := by
  unfold State.checked State.memoryFault
  split
  · exact ⟨fun h => (nomatch h), fun h => by omega⟩
  · exact ⟨fun h => by cases h; exact (⟨by omega, rfl⟩), fun h => by rw [h.2]⟩

/-- R58: and faults exactly when it is not. -/
theorem State.checked_fault {s t : State} {acc : MemAccess} {last : Nat} {f : Fault} {p : Params} :
    s.checked acc last t p = .fault f ↔ p.memSize ≤ last ∧ f = .memoryFault acc last s.pc := by
  unfold State.checked State.memoryFault
  split
  · exact ⟨fun h => by cases h; exact ⟨by assumption, rfl⟩, fun h => by rw [h.2]⟩
  · exact ⟨fun h => (nomatch h), fun h => by omega⟩

theorem State.checked_ne_refused {s t : State} {acc : MemAccess} {last : Nat} {r : Refusal} {p : Params} :
    s.checked acc last t p ≠ .refused r := by
  unfold State.checked State.memoryFault
  split <;> intro h <;> cases h

/-- R100: the three things a tick can do, under any configuration. -/
theorem tickWith_cases (ex : Instr → State → Out) (s : State) (p : Params := hardware) :
    (p.memSize ≤ s.pc.toNat + 1 ∧ tickWith ex s p = .fault (.memoryFault .fetch s.pc.toNat s.pc)) ∨
    (s.pc.toNat + 1 < p.memSize ∧ ∃ i, decodeWord (s.fetchWord p) = .ok i ∧ tickWith ex s p = ex i s) ∨
    (s.pc.toNat + 1 < p.memSize ∧ ∃ e, decodeWord (s.fetchWord p) = .error e ∧
      tickWith ex s p = .next (s.unimplemented (s.fetchWord p) p)) := by
  by_cases h : s.pc.toNat + 1 < p.memSize
  · cases hd : decodeWord (s.fetchWord p) with
    | ok i => exact .inr (.inl ⟨h, i, rfl, by simp only [tickWith, State.fetchable, h, hd, decide_true, if_true]⟩)
    | error e => exact .inr (.inr ⟨h, e, rfl, by simp only [tickWith, State.fetchable, h, hd, decide_true, if_true]⟩)
  · exact .inl ⟨by omega, by simp [tickWith, State.fetchable, h, State.memoryFault]⟩

/-- R212: what a step is, by the host's next operation, under any configuration. -/
theorem hostStepWith_cases (ex : Instr → State → Out) (s : State) (p : Params := hardware) :
    (s.hostOps = [] ∧ hostStepWith ex s p = tickWith ex s p) ∨
    (∃ op rest, s.hostOps = op :: rest ∧ hostStepWith ex s p = hostOpWith ex op { s with hostOps := rest } p) := by
  cases h : s.hostOps with
  | nil => exact .inl ⟨rfl, by simp only [hostStepWith, h]⟩
  | cons op rest => exact .inr ⟨op, rest, rfl, by simp only [hostStepWith, h]⟩

/-- R212: what a step of this hardware is. -/
theorem step_cases (s : State) :
    (s.hostOps = [] ∧ step s = tick s) ∨
    (∃ op rest, s.hostOps = op :: rest ∧ step s = hostOp op { s with hostOps := rest }) :=
  hostStepWith_cases exec s

/-- R221: what a load can do, under any configuration. -/
theorem loadProgram_cases (bytes : List Byte) (s : State) (p : Params := hardware) :
    (p.memSize < bytes.length + p.progBase ∧ loadProgram bytes s p = .fault .loadTooLarge) ∨
    (bytes.length + p.progBase ≤ p.memSize ∧
      loadProgram bytes s p = .next (s.writeBytes p.progBase bytes p)) := by
  unfold loadProgram
  split
  · exact .inl ⟨by assumption, rfl⟩
  · exact .inr ⟨by omega, rfl⟩

/-- R112: the two things a call can do, under any configuration. -/
theorem execCall_cases (nnn : Addr) (s : State) (p : Params := hardware) :
    (p.stackSlots ≤ s.sp.toNat + 1 ∧ execCall nnn s p = .fault (.stackFault .call s.pc)) ∨
    (s.sp.toNat + 1 < p.stackSlots ∧
      execCall nnn s p =
        .next (({ s with sp := s.sp + 1 }.setSlot (s.sp + 1) (handlerPc p.pcQuirk s.pc)).leavePc (pcOfAddr nnn)
          p.pcQuirk)) := by
  unfold execCall
  split
  · exact .inl ⟨by assumption, rfl⟩
  · exact .inr ⟨by omega, rfl⟩

/-- R112: on this hardware the stack is full exactly at `SP = 15`. -/
theorem stack_full_iff (sp : StackPtr) : hardware.stackSlots ≤ sp.toNat + 1 ↔ sp = 15 := by revert sp; decide

/-- R110: the two things a return can do, under any configuration. -/
theorem execRet_cases (s : State) (p : Params := hardware) :
    (s.sp = 0 ∧ execRet s p = .fault (.stackFault .ret s.pc)) ∨
    (s.sp ≠ 0 ∧ execRet s p = .next ({ s with sp := s.sp - 1 }.leavePc (s.slot s.sp) p.pcQuirk)) := by
  unfold execRet
  split
  · exact .inl ⟨by assumption, rfl⟩
  · exact .inr ⟨by assumption, rfl⟩

end Sys2Proof.Machine
end

