-- ==== Sys2Proof/Tests/Slice0.lean ====
section
/-! SUPPORT. Tests, each one step. Expected results are the vectors of spec/95_test_vectors.md (their ids are in the
comments) and the worked examples of the rules named; none was read off the model. -/

namespace Sys2Proof.Tests

open Sys2Proof.Machine

/-- The reset state with an instruction word at the pc. -/
def at200 (w : Nat) : State := State.reset.withFetchWord 16 w

/-- The reset state with an instruction word at another pc. -/
def atPc (pc : Word) (w : Nat) : State := { State.reset with pc := pc }.withFetchWord 16 w

/-- Some V registers set. -/
def withRegs (s : State) : List (Reg × Byte) → State
  | [] => s
  | (x, b) :: rest => withRegs (s.setReg x b) rest

/-- Some display cells on. -/
def withCells (s : State) : List (Nat × Nat) → State
  | [] => s
  | (x, y) :: rest => withCells { s with display := Display.setCell s.display x y true } rest

/-- One answer is a next state that passes a check. -/
def next (o : Out) (p : State → Bool) : Bool :=
  match o with
  | .next t => p t
  | _ => false

/-- One answer is the given fault. -/
def faults (o : Out) (f : Fault) : Bool :=
  match o with
  | .fault g => g == f
  | _ => false

/-- Exactly the listed cells (no repeats) are on: each of them is, and no more are. -/
def cellsOn (d : Display) (l : List (Nat × Nat)) : Bool :=
  l.all (fun c => Display.cell d c.1 c.2) && d.length == l.length && Display.wf d

/-! ## WellFormed: the one check refuses an ill-formed term -/

theorem test_drw_sixteen_rows_ill_formed : Instr.wellFormed (.drw 0 0 16) = false := by decide

/-! ## Decoding: each constructor from a word written out from its row of R74 -/

theorem test_decode_class0_1_2 :
    decodeWord 0b0000000011100000#16 = .ok .cls ∧ decodeWord 0b0000000011101110#16 = .ok .ret ∧
    decodeWord 0b0001001000110100#16 = .ok (.jp 0x234) ∧ decodeWord 0b0010001000001110#16 = .ok (.call 0x20E) := by decide

theorem test_decode_skips :
    decodeWord 0b0011001100101010#16 = .ok (.seImm 3 0x2A) ∧ decodeWord 0b0100001100101010#16 = .ok (.sneImm 3 0x2A) ∧
    decodeWord 0b0101000100100000#16 = .ok (.seReg 1 2) ∧ decodeWord 0b1001000100100000#16 = .ok (.sneReg 1 2) := by decide

theorem test_decode_imm :
    decodeWord 0b0110101000101111#16 = .ok (.ldImm 10 0x2F) ∧ decodeWord 0b0111000000000011#16 = .ok (.addImm 0 0x03) ∧
    decodeWord 0b1100001000001111#16 = .ok (.rnd 2 0x0F) := by decide

theorem test_decode_class8 :
    decodeWord 0b1000000100100000#16 = .ok (.ldReg 1 2) ∧ decodeWord 0b1000000100100001#16 = .ok (.orReg 1 2) ∧
    decodeWord 0b1000000100100010#16 = .ok (.andReg 1 2) ∧ decodeWord 0b1000000100100011#16 = .ok (.xorReg 1 2) ∧
    decodeWord 0b1000101010110100#16 = .ok (.addReg 10 11) := by decide

theorem test_decode_class8_flags :
    decodeWord 0b1000000100000101#16 = .ok (.subReg 1 0) ∧ decodeWord 0b1000000100000110#16 = .ok (.shr 1 0) ∧
    decodeWord 0b1000000100100111#16 = .ok (.subnReg 1 2) ∧ decodeWord 0b1000000100001110#16 = .ok (.shl 1 0) := by decide

theorem test_decode_index_jump_draw :
    decodeWord 0b1010001011110000#16 = .ok (.ldI 0x2F0) ∧ decodeWord 0b1011001100000000#16 = .ok (.jpV0 0x300) ∧
    decodeWord 0b1101000100100011#16 = .ok (.drw 1 2 3) := by decide

theorem test_decode_keys_timers :
    decodeWord 0b1110010110011110#16 = .ok (.skp 5) ∧ decodeWord 0b1110010110100001#16 = .ok (.sknp 5) ∧
    decodeWord 0b1111010000000111#16 = .ok (.ldVxDt 4) ∧ decodeWord 0b1111010000010101#16 = .ok (.ldDtVx 4) ∧
    decodeWord 0b1111010000011000#16 = .ok (.ldStVx 4) := by decide

theorem test_decode_classF_memory :
    decodeWord 0b1111001000011110#16 = .ok (.addI 2) ∧ decodeWord 0b1111001000101001#16 = .ok (.ldF 2) ∧
    decodeWord 0b1111000000110011#16 = .ok (.ldB 0) ∧ decodeWord 0b1111001001010101#16 = .ok (.storeRegs 2) ∧
    decodeWord 0b1111001101100101#16 = .ok (.loadRegs 3) := by decide

/-- R94 and part 2.1 of the vectors: the Unimplemented words. -/
theorem test_decode_unimplemented :
    decodeWord 0x0000 = .error .class0 ∧ decodeWord 0x01E0 = .error .class0 ∧ decodeWord 0x5121 = .error .class5 ∧
    decodeWord 0x8AB8 = .error .class8 ∧ decodeWord 0x8ABF = .error .class8 ∧ decodeWord 0xE19F = .error .classE ∧
    decodeWord 0xF30A = .error .classF ∧ decodeWord 0xFFFF = .error .classF := by decide

/-- S1: `decode(0xD123)`. -/
theorem test_decode_fields_D123 :
    Opcode.ofWord 0xD123 = ⟨0xD, 0x123, 0x3, 0x1, 0x2, 0x23⟩ := by decide

/-- R74: 33 rows; no word matches two of them. -/
theorem test_opcode_table_33_rows : opcodeTable.length = 33 := by decide

theorem test_table_word_decodes : decodeTableWord 16 0x1234 = some (.jp 0x234) ∧ decodeTableWord 16 0x0000 = none := by decide

/-! ## Fetch and Unimplemented: T1 to T8 -/

theorem test_T1_big_endian : next (step (at200 0x1234)) (fun t => t.pc == 0x234 && t.readByte 0x200 == 0x12) = true := by decide

theorem test_T2_last_window : next (step (atPc 0xFFE 0x6A2F)) (fun t => t.pc == 0x1000 && t.reg 10 == 0x2F) = true := by decide

theorem test_T3_fetch_faults : faults (step { State.reset with pc := 0xFFF }) (.memoryFault .fetch 0xFFF 0xFFF) = true := by decide

theorem test_T5_odd_pc : next (step (atPc 0x201 0x6007)) (fun t => t.pc == 0x203 && t.reg 0 == 7) = true := by decide

theorem test_T6_unimplemented :
    next (step (at200 0xF10A)) (fun t => t.pc == 0x202 && t.diagLog == [⟨0xF10A, 0x200⟩] && t.reg 1 == 0) = true := by decide

theorem test_T7_T8_quirk :
    next (tickUnder true (at200 0xF10A)) (fun t => t.pc == 0x202) = true ∧
    next (tickUnder true (at200 0x1234)) (fun t => t.pc == 0x236) = true := by decide

/-! ## Control transfer: F1 to F19 -/

theorem test_F1_call : next (step (atPc 0x204 0x220E)) (fun t => t.sp == 1 && t.slot 1 == 0x206 && t.pc == 0x20E) = true := by decide

theorem test_F2_ret :
    next (step ({ atPc 0x210 0x00EE with sp := 1 }.setSlot 1 0x206)) (fun t => t.sp == 0 && t.pc == 0x206 && t.slot 1 == 0x206) = true := by decide

theorem test_F3_F4_quirk :
    next (tickUnder true (atPc 0x204 0x220E)) (fun t => t.sp == 1 && t.slot 1 == 0x204 && t.pc == 0x210) = true ∧
    next (tickUnder true ({ atPc 0x212 0x00EE with sp := 1 }.setSlot 1 0x204)) (fun t => t.sp == 0 && t.pc == 0x206) = true := by decide

theorem test_F5_ret_empty : faults (step (at200 0x00EE)) (.stackFault .ret 0x200) = true := by decide

theorem test_F6_call_full : faults (step { at200 0x2300 with sp := 15 }) (.stackFault .call 0x200) = true := by decide

theorem test_F7_last_call :
    next (step { at200 0x2300 with sp := 14 }) (fun t => t.sp == 15 && t.slot 15 == 0x202 && t.pc == 0x300) = true := by decide

theorem test_F9_jump_v0_edge : next (step ((at200 0xBFFF).setReg 0 0xFF)) (fun t => t.pc == 0x10FE) = true := by decide

theorem test_F10_jump : next (step (at200 0x1FFF)) (fun t => t.pc == 0xFFF) = true := by decide

theorem test_F11_F12_se_imm :
    next (step ((at200 0x332A).setReg 3 0x2A)) (fun t => t.pc == 0x204) = true ∧
    next (step ((at200 0x332A).setReg 3 0x2B)) (fun t => t.pc == 0x202) = true := by decide

theorem test_F13_sne_imm : next (step ((at200 0x432A).setReg 3 0x2A)) (fun t => t.pc == 0x202) = true := by decide

theorem test_F14_F15_same_reg :
    next (step ((at200 0x5110).setReg 1 9)) (fun t => t.pc == 0x204) = true ∧
    next (step ((at200 0x9110).setReg 1 9)) (fun t => t.pc == 0x202) = true := by decide

theorem test_F16_F17_key_down :
    next (step ({ at200 0xE59E with keyTape := [0x0400] }.setReg 5 0x1A)) (fun t => t.pc == 0x204) = true ∧
    next (step ({ at200 0xE5A1 with keyTape := [0x0400] }.setReg 5 0x1A)) (fun t => t.pc == 0x202) = true := by decide

theorem test_F18_key_up : next (step ({ at200 0xE5A1 with keyTape := [0] }.setReg 5 3)) (fun t => t.pc == 0x204) = true := by decide

/-! ## Load and ALU: A1 to A28 -/

/-- V1, V2 and VF before; V1 and VF after. -/
def alu (w : Nat) (v1 v2 vf r1 rf : Byte) : Bool :=
  next (step (withRegs (at200 w) [(1, v1), (2, v2), (15, vf)])) fun t => t.reg 1 == r1 && t.reg 15 == rf && t.pc == 0x202

theorem test_A1_A3_loads : alu 0x61AB 0 0 7 0xAB 7 = true ∧ alu 0x8120 0x12 0x77 7 0x77 7 = true := by decide

theorem test_A2_add_imm_no_flag : alu 0x7103 0xFE 0 1 0x01 1 = true := by decide

theorem test_A4_A5_A6_logic :
    alu 0x8121 0xF0 0x0F 1 0xFF 1 = true ∧ alu 0x8122 0xF0 0x3C 1 0x30 1 = true ∧ alu 0x8123 0xF0 0x3C 1 0xCC 1 = true := by decide

theorem test_A7_A8_A9_add :
    alu 0x8124 0xFF 0x01 0 0x00 1 = true ∧ alu 0x8124 0xFF 0xFF 0 0xFE 1 = true ∧ alu 0x8124 0x7F 0x80 1 0xFF 0 = true := by decide

theorem test_A10_A11_A12_sub :
    alu 0x8125 0x0A 0x03 0 0x07 1 = true ∧ alu 0x8125 0x03 0x0A 1 0xF9 0 = true ∧ alu 0x8125 0x55 0x55 1 0x00 0 = true := by decide

theorem test_A13_A14_A15_subn :
    alu 0x8127 0x03 0x0A 0 0x07 1 = true ∧ alu 0x8127 0x0A 0x03 1 0xF9 0 = true ∧ alu 0x8127 0x55 0x55 1 0x00 0 = true := by decide

theorem test_A16_A17_shr : alu 0x8126 0xFB 0x99 0 0x7D 1 = true ∧ alu 0x8126 0x04 0xFF 1 0x02 0 = true := by decide

theorem test_A18_A19_shl : alu 0x812E 0x7D 0x99 1 0xFA 0 = true ∧ alu 0x812E 0x80 0 0 0x00 1 = true := by decide

theorem test_A20_A21_rnd :
    next (step { at200 0xC10F with rndTape := [0xB7] }) (fun t => t.reg 1 == 0x07 && t.rndTape == []) = true ∧
    next (step { at200 0xC100 with rndTape := [0xB7] }) (fun t => t.reg 1 == 0x00) = true := by decide

theorem test_A22_to_A26_result_over_flag :
    alu 0x8F14 0x20 0 0xF0 0x20 0x10 = true ∧ alu 0x8F15 0x03 0 0x05 0x03 0x02 = true ∧ alu 0x8F17 0x05 0 0x03 0x05 0x02 = true ∧
    alu 0x8F16 0 0 0x03 0 0x01 = true ∧ alu 0x8F1E 0 0 0x81 0 0x02 = true := by decide

theorem test_A27_A28_flag_operand : alu 0x81F4 0xFF 0 0x01 0x00 0x01 = true ∧ alu 0x6F07 0 0 0 0 0x07 = true := by decide

/-! ## Index and memory: M1 to M19 -/

theorem test_M1_ld_i : next (step (at200 0xA2F0)) (fun t => t.i == 0x2F0) = true := by decide

theorem test_M3_M4_add_i :
    next (step ({ at200 0xF21E with i := 0xF00 }.setReg 2 0xFF)) (fun t => t.i == 0xFFF) = true ∧
    faults (step ({ at200 0xF21E with i := 0xFFF }.setReg 2 1)) (.memoryFault .index 0x1000 0x200) = true := by decide

theorem test_M6_M7_font :
    next (step ((at200 0xF029).setReg 0 0x0F)) (fun t => t.i == 0x04B) = true ∧
    next (step ((at200 0xF029).setReg 0 0x1A)) (fun t => t.i == 0x032) = true := by decide

theorem test_M8_bcd_234 :
    next (step ({ at200 0xF033 with i := 0x300 }.setReg 0 234))
      (fun t => t.readByte 0x300 == 2 && t.readByte 0x301 == 3 && t.readByte 0x302 == 4 && t.i == 0x300) = true := by decide

theorem test_M12_M13_bcd_bounds :
    next (step ({ at200 0xF033 with i := 0xFFD }.setReg 0 123)) (fun t => t.readByte 0xFFD == 1 && t.readByte 0xFFF == 3) = true ∧
    faults (step { at200 0xF033 with i := 0xFFE }) (.memoryFault .store 0x1000 0x200) = true := by decide

theorem test_M16_store :
    next (step (withRegs { at200 0xF255 with i := 0x400 } [(0, 2), (1, 3), (2, 4), (3, 9)]))
      (fun t => t.readByte 0x400 == 2 && t.readByte 0x401 == 3 && t.readByte 0x402 == 4 && t.readByte 0x403 == 0) = true := by decide

theorem test_M15_store_bound : faults (step { at200 0xFF55 with i := 0xFF1 }) (.memoryFault .store 0x1000 0x200) = true := by decide

theorem test_M17_load_glyph :
    next (step ((at200 0xF465).setReg 5 0x66))
      (fun t => t.reg 0 == 0xF0 && t.reg 1 == 0x90 && t.reg 4 == 0xF0 && t.reg 5 == 0x66) = true := by decide

theorem test_M19_load_bound : faults (step { at200 0xF165 with i := 0xFFF }) (.memoryFault .load 0x1000 0x200) = true := by decide

/-! ## Timers: D1v to D6v -/

theorem test_D1_D2_D3_timers :
    next (step ((at200 0xF415).setReg 4 0x3C)) (fun t => t.dt == 0x3C && t.st == 0) = true ∧
    next (step { at200 0xF407 with dt := 0x3C }) (fun t => t.reg 4 == 0x3C && t.dt == 0x3C) = true ∧
    next (step ((at200 0xF418).setReg 4 0x05)) (fun t => t.st == 0x05 && t.dt == 0) = true := by decide

theorem test_D4_D6_timer_tick :
    next (step { State.reset with dt := 2, hostOps := [.timerTick] }) (fun t => t.dt == 1 && t.st == 0 && t.pc == 0x200) = true := by decide

/-! ## Display: G1v to G11v -/

/-- A draw's start state: `I = 0x300`, the sprite's bytes there, some registers. -/
def drawFrom (w : Nat) (bytes : List Byte) (rs : List (Reg × Byte)) : State :=
  (withRegs { at200 w with i := 0x300 } rs).writeBytes 0x300 bytes

theorem test_G1_draw_wraps :
    next (step (drawFrom 0xD341 [0xA5] [(3, 62), (4, 31)]))
      (fun t => cellsOn t.display [(62, 31), (0, 31), (3, 31), (5, 31)] && t.reg 15 == 0) = true := by decide +kernel

theorem test_G4_glyph_4 :
    next (step (withRegs { at200 0xD125 with i := 0x014 } [(1, 0x10), (2, 0x08)]))
      (fun t => cellsOn t.display [(16, 8), (19, 8), (16, 9), (19, 9), (16, 10), (17, 10), (18, 10), (19, 10), (19, 11), (19, 12)]) = true := by
  decide +kernel

theorem test_G5_no_rows : next (step { (at200 0xD120).setReg 15 1 with i := 0xFFF }) (fun t => t.reg 15 == 0) = true := by decide

theorem test_G7_draw_bound : faults (step { at200 0xD123 with i := 0xFFE }) (.memoryFault .load 0x1000 0x200) = true := by decide

theorem test_G8_G9_collision :
    next (step (withCells (drawFrom 0xD001 [0x80] []) [(0, 0)])) (fun t => cellsOn t.display [] && t.reg 15 == 1) = true ∧
    next (step (withCells (drawFrom 0xD001 [0x80] []) [(1, 0)])) (fun t => cellsOn t.display [(0, 0), (1, 0)] && t.reg 15 == 0) = true := by
  decide +kernel

theorem test_G10_clear :
    next (step (withCells ((at200 0x00E0).setReg 15 1) [(3, 4), (63, 31)])) (fun t => cellsOn t.display [] && t.reg 15 == 1) = true := by
  decide +kernel

theorem test_G11_old_vf_is_x :
    next (step (drawFrom 0xDF11 [0x80] [(15, 5)])) (fun t => Display.cell t.display 5 0 && t.reg 15 == 0) = true := by decide

/-! ## Scaler and host operations: K1, K2, K5 to K7, H2, H4 -/

theorem test_K1_K2_scale :
    scale ⟨2, 2, [0, 0, 0, 1]⟩ 4 4 1 = .pixels [0, 0, 0, 0, 0, 0, 0, 0, 0, 0, 255, 255, 0, 0, 255, 255] ∧
    scale ⟨2, 2, [0, 1, 0, 0]⟩ 4 2 2 = .pixels [0, 0, 0, 0, 255, 255, 255, 255, 0, 0, 0, 0, 0, 0, 0, 0] := by decide

theorem test_K5_K6_K7_invalid :
    State.reset.scaleToPresentationBuffer 100 50 1 = .invalidScale ∧ State.reset.scaleToPresentationBuffer 32 16 1 = .invalidScale ∧
    State.reset.scaleToPresentationBuffer 0 32 1 = .invalidScale := by decide

theorem test_H2_load_too_large :
    faults (step { State.reset with hostOps := [.loadProgram (List.replicate 3585 0)] }) .loadTooLarge = true := by decide +kernel

theorem test_H4_load :
    next (step { State.reset with hostOps := [.loadProgram [0x12, 0x00]] })
      (fun t => t.readByte 0x200 == 0x12 && t.readByte 0x201 == 0x00 && t.pc == 0x200 && t.hostOps == []) = true := by decide

/-! ## Witnesses: for each statement with hypotheses, a state and operands that meet them all, at the ends of their ranges -/

theorem witness_DecodeInvertsEncode : Instr.wellFormed (.drw 15 15 15) = true ∧ Instr.wellFormed (.drw 0 0 0) = true := by decide

theorem witness_EncodeInvertsDecode : decodeWord 0xDFFF = .ok (.drw 15 15 15) ∧ decodeWord 0xFF65 = .ok (.loadRegs 15) := by decide

theorem witness_DecoderAgreesWithOpcodeMap :
    decodeWord 0x8FFE = .ok (.shl 15 15) ∧ Instr.row (.shl 15 15) ∈ opcodeTable ∧
    (Instr.row (.shl 15 15)).matchesWord 0x8FFE = true := by decide

/-- The last window of memory, with nothing scheduled and with a scheduled tick. -/
theorem witness_StepRunsTheDecodedInstruction :
    (atPc 0xFFE 0x6A2F).pc.toNat + 1 < Config.memSize ∧ (atPc 0xFFE 0x6A2F).hostOps = [] ∧
    decodeBytes [(atPc 0xFFE 0x6A2F).readByte 0xFFE, (atPc 0xFFE 0x6A2F).readByte 0xFFF] = .ok (.ldImm 10 0x2F, []) ∧
    { atPc 0xFFE 0x6A2F with hostOps := [.tick, .reset] }.hostOps = .tick :: [.reset] := by decide

theorem witness_FetchFaultsExactlyOutsideMemory :
    (Config.memSize ≤ { State.reset with pc := 0xFFF }.pc.toNat + 1) ∧ ¬ Config.memSize ≤ { State.reset with pc := 0xFFE }.pc.toNat + 1 := by
  decide

theorem witness_UnimplementedWordIsALoggedNoOp :
    (atPc 0xFFE 0x5121).hostOps = [] ∧ (atPc 0xFFE 0x5121).pc.toNat + 1 < Config.memSize ∧
    decodeWord (atPc 0xFFE 0x5121).fetchWord = .error .class5 := by decide

/-- A tick that faults at execute, one that faults at fetch, and one that succeeds. -/
theorem witness_FaultingTickChangesNothingAndRepeats :
    faults (tick (at200 0x00EE)) (.stackFault .ret 0x200) = true ∧
    faults (tick { State.reset with pc := 0xFFFF }) (.memoryFault .fetch 0xFFFF 0xFFFF) = true ∧
    next (tick (at200 0xF10A)) (fun t => t.diagLog == [⟨0xF10A, 0x200⟩]) = true := by decide

/-- Each kind of instruction of the pc rule, under both settings. -/
theorem witness_FinalPcFollowsThePcRule :
    (∀ q, ∃ t, execUnder q (.jp 0xFFF) State.reset = .next t) ∧ (∀ q, ∃ t, execUnder q (.jpV0 0xFFF) State.reset = .next t) ∧
    (∀ q, ∃ t, execUnder q (.call 0xFFF) { State.reset with sp := 14 } = .next t) ∧
    (∀ q, ∃ t, execUnder q .ret { State.reset with sp := 1 } = .next t) ∧
    (∀ q, ∃ t, execUnder q (.seImm 0 0) State.reset = .next t) ∧ (∀ q, ∃ t, execUnder q .cls State.reset = .next t) ∧
    isSkip (.seImm 0 0) = true ∧ isSkip .cls = false ∧ isTransfer .cls = false :=
  ⟨fun _ => ⟨_, rfl⟩, fun _ => ⟨_, rfl⟩, fun _ => ⟨_, rfl⟩, fun _ => ⟨_, rfl⟩, fun q => by cases q <;> exact ⟨_, rfl⟩,
    fun _ => ⟨_, rfl⟩, rfl, rfl, rfl⟩

theorem witness_CallPushesThenJumps : { State.reset with sp := 14 }.sp ≠ 15 ∧ { State.reset with sp := 15 }.sp = 15 := by decide

theorem witness_ReturnPopsThenJumps : { State.reset with sp := 1 }.sp ≠ 0 ∧ State.reset.sp = 0 := by decide

/-- The state after the call itself meets the hypotheses. -/
theorem witness_CallThenReturnComesBack :
    ∃ t, execUnder false (.call 0x20E) { State.reset with sp := 14 } = .next t ∧ t.sp = 15 ∧ t.slot t.sp = 0x202 := ⟨_, rfl, rfl, rfl⟩

theorem witness_KeySkipsSampleOnceAndSkip : { State.reset with keyTape := [0x8001] }.keyTape = 0x8001 :: [] := by decide

theorem witness_AddAndSubtractSetFlagThenResult : (14 : Reg) ≠ 15 := by decide

theorem witness_ShiftsMoveVxByOne : (0 : Reg) ≠ 15 := by decide

theorem witness_RandomLoadMasksTheInput : { State.reset with rndTape := [0xB7] }.rndTape = 0xB7 :: [] := by decide

/-- A flag writer and an ordinary destination, each changing VF. -/
theorem witness_OnlyFlagWritersOrDestinationsChangeVf :
    (∃ t, exec (.subReg 1 0) (State.reset.setReg 1 1) = .next t ∧ t.reg 15 ≠ (State.reset.setReg 1 1).reg 15) ∧
    (∃ t, exec (.ldImm 15 7) State.reset = .next t ∧ t.reg 15 ≠ State.reset.reg 15) := ⟨⟨_, rfl, by decide⟩, ⟨_, rfl, by decide⟩⟩

theorem witness_IndexAddStaysAddressable :
    ({ State.reset with i := 0xF00 }.setReg 2 0xFF).i.toNat + (({ State.reset with i := 0xF00 }.setReg 2 0xFF).reg 2).toNat = 4095 ∧
    ({ State.reset with i := 0xF01 }.setReg 2 0xFF).i.toNat + (({ State.reset with i := 0xF01 }.setReg 2 0xFF).reg 2).toNat = 4096 := by decide

theorem witness_BcdStoreWritesThreeDigits :
    { State.reset with i := 0xFFD }.i.toNat + 2 = 4095 ∧ { State.reset with i := 0xFFE }.i.toNat + 2 = 4096 ∧
    (0x2FF < State.ea { State.reset with i := 0x300 } 0) ∧ State.ea { State.reset with i := 0x300 } 2 < 0x303 := by decide

theorem witness_BlockStoreWritesTheRegisters :
    { State.reset with i := 0xFF0 }.i.toNat + (15 : Reg).val = 4095 ∧ { State.reset with i := 0xFF1 }.i.toNat + (15 : Reg).val = 4096 ∧
    { State.reset with i := 0xFFF }.i.toNat + (0 : Reg).val = 4095 ∧ (15 : Reg) ≤ 15 := by decide

theorem witness_BlockLoadReadsTheRegisters :
    { State.reset with i := 0xFFE }.i.toNat + (1 : Reg).val = 4095 ∧ { State.reset with i := 0xFFF }.i.toNat + (1 : Reg).val = 4096 := by decide

/-- The state after the store itself meets the hypotheses. -/
theorem witness_StoreThenLoadRestoresRegisters :
    ∃ t, exec (.storeRegs 15) { State.reset with i := 0xFF0 } = .next t ∧ t.i = 0xFF0 ∧ (3 : Reg) ≤ 15 := ⟨_, rfl, rfl, by decide⟩

/-- A store to the two bytes after its own word. -/
theorem witness_NextFetchSeesTheStore :
    ∃ t, exec (.storeRegs 1) { State.reset with i := 0x202 } = .next t ∧ t.pc.toNat = State.ea { State.reset with i := 0x202 } 0 ∧
      t.pc.toNat + 1 = State.ea { State.reset with i := 0x202 } 1 := ⟨_, rfl, by decide, by decide⟩

theorem witness_TimerTickCountsBothTimersDown :
    { State.reset with dt := 255, hostOps := [.timerTick, .tick] }.hostOps = .timerTick :: [.tick] := by decide

/-- No rows at the top address, the last addressable row, the first that is not; a collision and none. -/
theorem witness_DrawXorsTheWrappedSprite :
    { State.reset with i := 0xFF1 }.i.toNat + 15 - 1 = 4095 ∧ { State.reset with i := 0xFF2 }.i.toNat + 15 - 1 = 4096 ∧
    { State.reset with i := 0xFFF }.i.toNat + 0 - 1 < 4096 ∧
    (∃ t, exec (.drw 0 0 1) (withCells State.reset [(0, 0)]) = .next t ∧
      Display.cell (withCells State.reset [(0, 0)]).display 0 0 = true ∧ Display.cell t.display 0 0 = false) ∧
    (∃ t, exec (.drw 0 0 0) State.reset = .next t ∧ Display.cell State.reset.display 0 0 = false) :=
  ⟨by decide, by decide, by decide, ⟨_, rfl, by decide, by decide⟩, ⟨_, rfl, by decide⟩⟩

/-- The state after the first draw itself meets the hypotheses. -/
theorem witness_DrawingTwiceRestoresTheDisplay :
    ∃ t, exec (.drw 0 1 1) State.reset = .next t ∧ t.i = State.reset.i ∧ t.reg 0 = State.reset.reg 0 ∧ t.reg 1 = State.reset.reg 1 ∧
      t.readByte 0 = State.reset.readByte 0 ∧ Display.cell State.reset.display 0 0 = false ∧ Display.cell t.display 0 0 = true :=
  ⟨_, rfl, rfl, by decide, by decide, rfl, by decide, by decide⟩

theorem witness_SnapshotIsRowMajor : State.reset.displaySnapshot.length = 2048 ∧ (63 : Nat) < 64 ∧ (31 : Nat) < 32 := by decide +kernel

/-- A size that is a multiple and one that is not. -/
theorem witness_ScalerRejectsNonMultiples :
    (1 ≤ (⟨2, 2, [0, 0, 0, 1]⟩ : LogicalBuffer).width) ∧ (1 ≤ (⟨2, 2, [0, 0, 0, 1]⟩ : LogicalBuffer).height) ∧
    scale ⟨2, 2, [0, 0, 0, 1]⟩ 3 2 1 = .invalidScale ∧ scale ⟨2, 2, [0, 0, 0, 1]⟩ 2 2 1 = .pixels [0, 0, 0, 255] := by decide

theorem witness_ScalerFillsBlocksOfPixels :
    (1 : Nat) < 2 ∧ 1 * 3 ≤ 5 ∧ 5 < (1 + 1) * 3 ∧ 1 * 2 ≤ 2 ∧ 2 < (1 + 1) * 2 ∧
    (⟨2, 2, [0, 0, 0, 1]⟩ : LogicalBuffer).on 1 1 = true ∧ (⟨2, 2, [0, 0, 0, 1]⟩ : LogicalBuffer).on 0 1 = false := by decide

theorem witness_ScalerReadsTheDisplay : State.reset.logicalBuffer.on 63 31 = Display.cell State.reset.display 63 31 := by decide +kernel

theorem witness_ResetLeavesTheListedValues :
    { State.reset with pc := 0x300, hostOps := [.reset] }.hostOps = .reset :: [] ∧ State.reset.readByte 79 = 0x80 ∧
    State.reset.readByte 80 = 0 := by decide

/-- The largest image that fits and the smallest that does not. -/
theorem witness_LoadProgramCopiesAllOrNothing :
    (List.replicate 3584 (0 : Byte)).length + 0x200 = 4096 ∧ 4096 < (List.replicate 3585 (0 : Byte)).length + 0x200 ∧
    { State.reset with hostOps := [.loadProgram [0x12, 0x00]] }.hostOps = .loadProgram [0x12, 0x00] :: [] := by
  refine ⟨by rw [List.length_replicate], by rw [List.length_replicate]; decide, rfl⟩

/-- Each element changed by an instruction that may. -/
theorem witness_OnlyListedInstructionsWriteEachElement :
    (∃ t, exec (.ldI 1) State.reset = .next t ∧ t.i ≠ State.reset.i) ∧
    (∃ t, exec (.ldDtVx 0) (State.reset.setReg 0 9) = .next t ∧ t.dt ≠ 0) ∧
    (∃ t, exec (.ldStVx 0) (State.reset.setReg 0 9) = .next t ∧ t.st ≠ 0) ∧
    (∃ t, exec (.call 0x300) State.reset = .next t ∧ t.sp ≠ State.reset.sp ∧ t.stack ≠ State.reset.stack) ∧
    (∃ t, exec (.storeRegs 0) (State.reset.setReg 0 9) = .next t ∧ t.mem ≠ State.reset.mem) ∧
    (∃ t, exec .cls (withCells State.reset [(0, 0)]) = .next t ∧ t.display ≠ (withCells State.reset [(0, 0)]).display) ∧
    (∃ t, exec (.skp 0) State.reset = .next t ∧ t.keySamples ≠ 0) ∧ (∃ t, exec (.rnd 0 0) State.reset = .next t ∧ t.rndDraws ≠ 0) :=
  ⟨⟨_, rfl, by decide⟩, ⟨_, rfl, by decide⟩, ⟨_, rfl, by decide⟩, ⟨_, rfl, by decide, by decide⟩, ⟨_, rfl, by decide⟩,
    ⟨_, rfl, by decide +kernel⟩, ⟨_, rfl, Nat.succ_ne_zero _⟩, ⟨_, rfl, Nat.succ_ne_zero _⟩⟩

/-- A self-jump under each setting of `PC_QUIRK`. -/
theorem witness_SelfJumpIsAFixedPoint : SelfJump false (at200 0x1200) ∧ SelfJump true (at200 0x11FE) :=
  ⟨⟨by decide, 0x200, by decide, by decide⟩, ⟨by decide, 0x1FE, by decide, by decide⟩⟩

/-- Reset meets the invariant, and both kinds of step go on from it: a tick, and an operation of the host. -/
theorem witness_EveryStepKeepsTheInvariant :
    Memory.wf State.reset.mem = true ∧ Display.wf State.reset.display = true ∧ State.reset.pc.toNat ≤ 0x10FE ∧
    State.reset.sp.toNat < Config.stackSlots ∧ (∀ k, (State.reset.slot k).toNat ≤ Config.memSize) ∧
    State.reset.slot 0 = 0 ∧
    (∃ t, step State.reset = .next t) ∧ (∃ t, step { State.reset with hostOps := [.timerTick] } = .next t) ∧
    Memory.wf [(0x200, 0x12), (0xFFF, 1)] = true ∧ Memory.wf [(0x200, 0)] = false ∧
    Display.wf [(0, 63), (31, 0)] = true ∧ Display.wf [(0, 64)] = false :=
  ⟨by decide, by decide, by decide, by decide, by decide, by decide, ⟨_, rfl⟩, ⟨_, rfl⟩, by decide, by decide, by decide,
    by decide⟩

theorem witness_UnreadStateNeverMatters :
    DifferInUnread State.reset ({ State.reset with st := 5, diagLog := [⟨0, 0x200⟩] }.setSlot 0 7) ∧ (∃ t, step State.reset = .next t) ∧
    faults (step { State.reset with pc := 0xFFF }) (.memoryFault .fetch 0xFFF 0xFFF) = true :=
  ⟨⟨5, [⟨0, 0x200⟩], 7, rfl⟩, ⟨_, rfl⟩, by decide⟩

/-! ## Other configurations (R5): a small board that differs from this hardware in every parameter the types leave free -/

/-- 1024 bytes, 8 stack slots, the program at 0x300, the font just below it, 16 by 16 cells, the other PC rule. -/
def smallBoard : Params :=
  { hardware with memSize := 1024, stackSlots := 8, progBase := 0x300, fontBase := 0x2B0, lw := 16, lh := 16, pcQuirk := true }

theorem smallBoard_valid : smallBoard.Valid where
  memAboveProgram := by decide
  memAddressable := by decide
  fontBelowProgram := by decide
  someColumn := by decide
  someRow := by decide
  nreg := rfl
  xlen := rfl
  ilen := rfl
  pclen := rfl
  splen := rfl
  someSlot := by decide
  slotsInReach := by decide
  programInMemory := by decide
  glyphBytes := rfl
  fontBytes := by decide

/-- R112, R151 at the bounds of R5: the last slot and the last byte of the small board, and one beyond each. -/
theorem test_bounds_follow_the_configuration :
    next (execFor smallBoard (.call 0x300) { State.reset with sp := 6 }) (fun t => t.sp == 7) = true ∧
    faults (execFor smallBoard (.call 0x300) { State.reset with sp := 7 }) (.stackFault .call 0x200) = true ∧
    next (execFor smallBoard (.addI 2) ({ State.reset with i := 0x300 }.setReg 2 0xFF)) (fun t => t.i == 0x3FF) = true ∧
    faults (execFor smallBoard (.addI 2) ({ State.reset with i := 0x301 }.setReg 2 0xFF))
      (.memoryFault .index 0x400 0x200) = true := by decide

/-- R177 at the small board's corner: the four set bits of 0xA5, wrapped at 16 columns. -/
theorem test_draw_follows_the_configuration :
    next (execFor smallBoard (.drw 3 4 1) (withRegs ({ State.reset with i := 0x300 }.writeBytes 0x300 [0xA5]) [(3, 14), (4, 31)]))
      (fun t => t.display == [(15, 0), (15, 3), (15, 5), (15, 14)] && t.reg 15 == 0) = true := by decide

/-- Each way an instruction or a tick of the small board can fault. -/
theorem witness_FaultsFollowTheConfiguration :
    faults (execFor smallBoard .ret State.reset) (.stackFault .ret 0x200) = true ∧
    faults (execFor smallBoard (.drw 0 0 2) { State.reset with i := 0x3FF }) (.memoryFault .load 0x400 0x200) = true ∧
    faults (tickFor smallBoard { State.reset with pc := 0x3FF }) (.memoryFault .fetch 0x3FF 0x3FF) = true := by decide

/-- The font's first and last byte, and the bytes on either side of it. -/
theorem witness_ResetAndFontFollowTheConfiguration :
    smallBoard.Valid ∧ (State.resetFor smallBoard).readByte 0x2B0 smallBoard = 0xF0 ∧
    (State.resetFor smallBoard).readByte 0x2FF smallBoard = 0x80 ∧
    (State.resetFor smallBoard).readByte 0x2AF smallBoard = 0 ∧
    (State.resetFor smallBoard).readByte 0x300 smallBoard = 0 := ⟨smallBoard_valid, by decide, by decide, by decide, by decide⟩

/-- The largest image that fits the small board and the smallest that does not. -/
theorem witness_LoadFollowsTheConfiguration :
    (List.replicate 256 (0 : Byte)).length + smallBoard.progBase = smallBoard.memSize ∧
    smallBoard.memSize < (List.replicate 257 (0 : Byte)).length + smallBoard.progBase ∧
    { State.reset with hostOps := [.loadProgram [0x12, 0x00]] }.hostOps = .loadProgram [0x12, 0x00] :: [] := by
  refine ⟨by rw [List.length_replicate]; rfl, by rw [List.length_replicate]; decide, rfl⟩

/-- The tallest sprite on the small board, at the last address that holds it; a collision, and none. -/
theorem witness_DrawFollowsTheConfiguration :
    8 ≤ smallBoard.lw ∧ 15 ≤ smallBoard.lh ∧ { State.reset with i := 0x3F1 }.i.toNat + 15 - 1 < smallBoard.memSize ∧
    (∃ t, execFor smallBoard (.drw 0 0 1) { State.reset with i := 0x2B0, display := [(0, 0)] } = .next t ∧
      Display.cell [(0, 0)] 0 0 smallBoard = true ∧ Display.cell t.display 0 0 smallBoard = false) ∧
    (∃ t, execFor smallBoard (.drw 0 0 0) State.reset = .next t) :=
  ⟨by decide, by decide, by decide, ⟨_, rfl, by decide, by decide⟩, ⟨_, rfl⟩⟩

theorem witness_SnapshotFollowsTheConfiguration : (15 : Nat) < smallBoard.lw ∧ (15 : Nat) < smallBoard.lh := by decide

theorem witness_ResetMeetsTheInvariantInEveryConfiguration : hardware.Valid ∧ smallBoard.Valid :=
  ⟨hardware_valid, smallBoard_valid⟩

/-- The small board after reset meets the invariant and goes on. -/
theorem witness_EveryStepKeepsTheInvariantInEveryConfiguration :
    smallBoard.Valid ∧ Inv (State.resetFor smallBoard) smallBoard ∧ (∃ t, stepFor smallBoard (State.resetFor smallBoard) = .next t) :=
  ⟨smallBoard_valid, ⟨rfl, rfl, by decide, by decide, by decide, rfl⟩, ⟨_, rfl⟩⟩

end Sys2Proof.Tests
end

section
/-! PROOFS. The machine under any configuration (R5, R32): every step keeps the invariant, the faults lie at the
configuration's bounds, reset and font, the load, and this hardware as one configuration. -/

namespace Sys2Proof.Machine

/-! ## The pc, the state after reset, and what is unchanged -/

/-- A pc two further on, wrapped or not. -/
theorem toNat_add_two_le (w : Word) : (w + 2).toNat ≤ w.toNat + 2 := Nat.mod_le _ _

/-- The pc a handler sees is at most `MEM_SIZE` when the fetch is inside memory (R101, R102). -/
theorem handlerPc_le {pc : Word} {p : Params} (hf : pc.toNat + 1 < p.memSize) :
    (handlerPc p.pcQuirk pc).toNat ≤ p.memSize := by
  cases p.pcQuirk
  · exact (toNat_add_two_le pc).trans hf
  · exact Nat.le_of_succ_le (Nat.le_of_lt hf)

/-- R36: PROG_BASE fits the pc. -/
theorem State.resetFor_pc_toNat {p : Params} (hp : p.Valid) : (State.resetFor p).pc.toNat = p.progBase :=
  Nat.mod_eq_of_lt (by have := hp.programInMemory; have := hp.memAddressable; omega)

theorem State.resetFor_readByte (p : Params) (a : Nat) : (State.resetFor p).readByte a p = resetByte a p := rfl

theorem State.resetFor_slot (p : Params) (k : StackPtr) : (State.resetFor p).slot k = 0 := by
  simp [State.slot, State.resetFor]

theorem Part.same_rfl (part : Part) (s : State) (p : Params) : part.same s s p := by
  cases part <;> simp [Part.same]

/-! ## The invariant, update by update -/

/-- What the invariant reads of a state. -/
def State.invParts (s : State) : Memory × Display × Word × StackPtr × Vector Word 16 :=
  (s.mem, s.display, s.pc, s.sp, s.stack)

/-- A state that agrees on what the invariant reads meets it too. -/
theorem Inv.of_invParts {s u : State} {p : Params} (hi : Inv s p) (h : u.invParts = s.invParts) : Inv u p := by
  simp only [State.invParts, Prod.mk.injEq] at h
  obtain ⟨hmem, hdisplay, hpc, hsp, hstack⟩ := h
  have hslot (k : StackPtr) : u.slot k = s.slot k := by simp only [State.slot, hstack]
  exact
    { memCanonical := hmem ▸ hi.memCanonical
      displayCanonical := hdisplay ▸ hi.displayCanonical
      pcBound := hpc ▸ hi.pcBound
      spBound := hsp ▸ hi.spBound
      slotBound := fun k => hslot k ▸ hi.slotBound k
      slotZero := hslot 0 ▸ hi.slotZero }

/-- A new memory in canonical form. -/
theorem Inv.withMem {s : State} {p : Params} {m : Memory} (hi : Inv s p) (hm : m.wf p = true) :
    Inv { s with mem := m } p :=
  { hi with memCanonical := hm }

/-- A new display in canonical form. -/
theorem Inv.withDisplay {s : State} {p : Params} {d : Display} (hi : Inv s p) (hd : Display.wf d p = true) :
    Inv { s with display := d } p :=
  { hi with displayCanonical := hd }

/-- A pc the handler leaves within 0x10FE is within R26's bound once `POST` is added. -/
theorem Inv.leavePc {s : State} {p : Params} {w : Word} (hi : Inv s p) (hw : w.toNat ≤ 0x10FE) :
    Inv (s.leavePc w p.pcQuirk) p :=
  { hi with pcBound := (Nat.mod_le _ _).trans (Nat.add_le_add_right hw _) }

/-- R102: an advance from inside memory; `u` is `s` but for what the invariant does not read. -/
theorem Inv.advance {s u : State} {p : Params} (hi : Inv s p) (hp : p.Valid) (hf : u.pc.toNat + 1 < p.memSize)
    (h : u.invParts = s.invParts) : Inv (u.advance p.pcQuirk) p := by
  have hle := handlerPc_le hf
  exact (hi.of_invParts h).leavePc (by have := hp.memAddressable; omega)

/-- R120: a skip from inside memory; `u` is `s` but for what the invariant does not read. -/
theorem Inv.skipIf {s u : State} {p : Params} (hi : Inv s p) (hp : p.Valid) (hf : u.pc.toNat + 1 < p.memSize)
    {taken : Bool} (h : u.invParts = s.invParts) : Inv (u.skipIf taken p.pcQuirk) p := by
  have hle := handlerPc_le hf
  have hmem := hp.memAddressable
  refine (hi.of_invParts h).leavePc ?_
  cases taken
  · exact hle.trans (by omega)
  · exact (toNat_add_two_le _).trans (by omega)

/-- R112: a push within the slots, of a pc at most `MEM_SIZE`; slot 0 is not the one pushed (C1). -/
theorem Inv.push {s : State} {p : Params} {w : Word} (hi : Inv s p) (hp : p.Valid)
    (hsp : s.sp.toNat + 1 < p.stackSlots) (hw : w.toNat ≤ p.memSize) :
    Inv ({ s with sp := s.sp + 1 }.setSlot (s.sp + 1) w) p := by
  have hslots : p.stackSlots ≤ 2 ^ 4 := hp.splen ▸ hp.slotsInReach
  have hnew : (s.sp + 1).toNat = s.sp.toNat + 1 := by bv_omega
  have hne : s.sp + 1 ≠ 0 := fun h => nomatch h ▸ hnew
  have hslot (k : StackPtr) : State.slot ({ s with sp := s.sp + 1 }.setSlot (s.sp + 1) w) k =
      if s.sp + 1 = k then w else s.slot k := State.slot_setSlot _ _ _ _
  exact
    { hi with
      spBound := hnew ▸ hsp
      slotBound := fun k => by rw [hslot]; split; exacts [hw, hi.slotBound k]
      slotZero := by rw [hslot, if_neg hne]; exact hi.slotZero }

/-- R110: a pop of a stack that is not empty. -/
theorem Inv.pop {s : State} {p : Params} (hi : Inv s p) (hne : s.sp ≠ 0) : Inv { s with sp := s.sp - 1 } p :=
  have hsp : (s.sp - 1).toNat < p.stackSlots := by have := hi.spBound; bv_omega
  { hi with spBound := hsp }

/-! ## Every instruction, tick and step -/

/-- R33: an instruction fetched inside memory keeps the invariant. -/
theorem inv_of_execFor {s t : State} {p : Params} {i : Instr} (hi : Inv s p) (hp : p.Valid)
    (hf : s.pc.toNat + 1 < p.memSize) (h : execFor p i s = .next t) : Inv t p := by
  have hmem := hp.memAddressable
  cases i with
  | cls => cases h; exact (hi.withDisplay (d := Display.blank) rfl).advance hp hf rfl
  | ret =>
    obtain ⟨-, hr⟩ | ⟨hne, hr⟩ := execRet_cases s p
    · cases hr.symm.trans h
    · cases hr.symm.trans h
      exact (hi.pop hne).leavePc (by have := hi.slotBound s.sp; omega)
  | jp nnn => cases h; exact hi.leavePc (by rw [pcOfAddr_toNat]; omega)
  | call nnn =>
    obtain ⟨-, hc⟩ | ⟨hsp, hc⟩ := execCall_cases nnn s p
    · cases hc.symm.trans h
    · cases hc.symm.trans h
      exact (hi.push hp hsp (handlerPc_le hf)).leavePc (by rw [pcOfAddr_toNat]; omega)
  | jpV0 nnn =>
    cases h
    exact hi.leavePc (by rw [BitVec.toNat_add, pcOfAddr_toNat, pcOfByte_toNat]; omega)
  | seImm | sneImm | seReg | sneReg => cases h; exact hi.skipIf hp hf rfl
  | skp | sknp => cases h; exact hi.skipIf (u := s.keysSampled) hp hf rfl
  | ldImm | addImm | ldReg | orReg | andReg | xorReg | addReg | subReg | shr | subnReg | shl | rnd | ldVxDt | ldDtVx
  | ldStVx | ldI | ldF => cases h; exact hi.advance hp hf rfl
  | addI | loadRegs =>
    obtain ⟨-, rfl⟩ := State.checked_next.mp h
    exact hi.advance hp hf rfl
  | ldB x =>
    obtain ⟨hlast, rfl⟩ := State.checked_next.mp h
    exact (hi.withMem (Memory.wf_writeBytes (bs := bcdDigits (s.reg x)) hlast hi.memCanonical)).advance hp hf rfl
  | storeRegs x =>
    obtain ⟨hlast, rfl⟩ := State.checked_next.mp h
    have hfit : s.ea 0 + (s.regBlock x).length ≤ p.memSize := by rw [State.regBlock_length]; exact hlast
    exact (hi.withMem (Memory.wf_writeBytes hfit hi.memCanonical)).advance hp hf rfl
  | drw x y n =>
    obtain ⟨-, -, hd⟩ | ⟨-, hd⟩ := execDrw_cases x y n s p
    · cases hd.symm.trans h
    · cases hd.symm.trans h
      have hwf := wf_drawSprite s.mem (s.ea 0) (s.reg x).toNat (s.reg y).toNat n hp.someColumn hp.someRow hi.displayCanonical
      exact (hi.withDisplay hwf).advance hp hf rfl

/-- R33: a tick keeps the invariant. -/
theorem inv_of_tickFor {s t : State} {p : Params} (hi : Inv s p) (hp : p.Valid) (h : tickFor p s = .next t) :
    Inv t p := by
  obtain ⟨-, ht⟩ | ⟨hf, i, -, ht⟩ | ⟨hf, e, -, ht⟩ := tickWith_cases (execFor p) s p
  · cases ht.symm.trans h
  · exact inv_of_execFor hi hp hf (ht.symm.trans h)
  · cases ht.symm.trans h
    exact hi.advance hp hf rfl

/-- R36: the invariant holds after reset. -/
theorem inv_resetFor {p : Params} (hp : p.Valid) : Inv (State.resetFor p) p where
  memCanonical := rfl
  displayCanonical := rfl
  pcBound := by
    have := hp.memAddressable
    have := hp.programInMemory
    rw [State.resetFor_pc_toNat hp]; omega
  spBound := hp.someSlot
  slotBound k := by simp [State.resetFor_slot]
  slotZero := State.resetFor_slot p 0

/-- R33: each operation of the host keeps the invariant. -/
theorem inv_of_hostOpWith {s t : State} {p : Params} {op : HostOp} (hi : Inv s p) (hp : p.Valid)
    (h : hostOpWith (execFor p) op s p = .next t) : Inv t p := by
  cases op with
  | reset => cases h; exact (inv_resetFor hp).of_invParts rfl
  | loadProgram bytes =>
    obtain ⟨-, hl⟩ | ⟨hfit, hl⟩ := loadProgram_cases bytes s p
    · cases hl.symm.trans h
    · cases hl.symm.trans h
      exact hi.withMem (Memory.wf_writeBytes (by omega) hi.memCanonical)
  | timerTick => cases h; exact hi.of_invParts rfl
  | tick => exact inv_of_tickFor hi hp h

/-- Settles O59: a step is a tick or the next operation on the host's schedule, and each keeps the invariant. -/
theorem everyStepKeepsTheInvariantInEveryConfiguration :
    Obligations.EveryStepKeepsTheInvariantInEveryConfiguration := by
  intro p s t hp hi h
  obtain ⟨-, hs⟩ | ⟨op, rest, -, hs⟩ := hostStepWith_cases (execFor p) s p
  · exact inv_of_tickFor hi hp (hs.symm.trans h)
  · exact inv_of_hostOpWith (s := { s with hostOps := rest }) (hi.of_invParts rfl) hp (hs.symm.trans h)

/-- Settles O58: the reset state lists no memory and no display cell, and its pc, SP and slots are in bounds. -/
theorem resetMeetsTheInvariantInEveryConfiguration : Obligations.ResetMeetsTheInvariantInEveryConfiguration :=
  fun _ hp => inv_resetFor hp

/-! ## Faults -/

theorem fault_eq_fault {f g : Fault} : (.fault g : Out) = .fault f ↔ f = g := by
  rw [Host.Outcome.fault.injEq, eq_comm]

/-- R110, R201: when a return faults. -/
theorem execRet_fault {s : State} {f : Fault} {p : Params} :
    execRet s p = .fault f ↔ s.sp = 0 ∧ f = .stackFault .ret s.pc := by
  obtain ⟨hs, h⟩ | ⟨hs, h⟩ := execRet_cases s p
  · rw [h, fault_eq_fault, and_iff_right hs]
  · exact h ▸ iff_of_false nofun fun hf => hs hf.1

/-- R112, R201: when a call faults. -/
theorem execCall_fault {nnn : Addr} {s : State} {f : Fault} {p : Params} :
    execCall nnn s p = .fault f ↔ p.stackSlots ≤ s.sp.toNat + 1 ∧ f = .stackFault .call s.pc := by
  obtain ⟨hs, h⟩ | ⟨hs, h⟩ := execCall_cases nnn s p
  · rw [h, fault_eq_fault, and_iff_right hs]
  · exact h ▸ iff_of_false nofun fun hf => Nat.not_le.mpr hs hf.1

/-- R176, R202: when a draw faults. -/
theorem execDrw_fault {x y : Reg} {n : Nat} {s : State} {f : Fault} {p : Params} :
    execDrw x y n s p = .fault f ↔
      1 ≤ n ∧ p.memSize ≤ s.i.toNat + n - 1 ∧ f = .memoryFault .load (s.i.toNat + n - 1) s.pc := by
  obtain ⟨hn, hm, h⟩ | ⟨hn, h⟩ := execDrw_cases x y n s p
  · rw [h, fault_eq_fault, and_iff_right hn, and_iff_right hm]
  · exact h ▸ iff_of_false nofun fun ⟨h1, h2, _⟩ => by omega

/-- R107: no instruction is refused; the seven that can fault answer a next state or a fault, the others a next state. -/
theorem execFor_ne_refused (p : Params) (i : Instr) (s : State) (r : Refusal) : execFor p i s ≠ .refused r := by
  intro h
  cases i with
  | ret => obtain ⟨-, hr⟩ | ⟨-, hr⟩ := execRet_cases s p <;> cases hr.symm.trans h
  | call nnn => obtain ⟨-, hc⟩ | ⟨-, hc⟩ := execCall_cases nnn s p <;> cases hc.symm.trans h
  | drw x y n => obtain ⟨-, -, hd⟩ | ⟨-, hd⟩ := execDrw_cases x y n s p <;> cases hd.symm.trans h
  | addI | ldB | storeRegs | loadRegs => exact State.checked_ne_refused h
  | _ => cases h

/-- Settles O53: each of the seven instructions that can fault has its own disjunct, and no other instruction has one. -/
theorem faultsFollowTheConfiguration : Obligations.FaultsFollowTheConfiguration := by
  refine ⟨fun p i s f => ?_, execFor_ne_refused, fun p s f => ?_⟩
  · cases i with
    | ret => simpa using! execRet_fault
    | call nnn => simpa using! execCall_fault
    | drw x y n => simpa using! execDrw_fault
    | addI | ldB | storeRegs | loadRegs => simpa using! State.checked_fault
    | _ => exact iff_of_false nofun (by simp)
  · obtain ⟨hf, ht⟩ | ⟨hf, i, hd, ht⟩ | ⟨hf, e, hd, ht⟩ := tickWith_cases (execFor p) s p
    · simp only [tickFor, ht, fault_eq_fault, hf, Nat.not_lt.mpr hf, true_and, false_and, or_false]
    · simp [tickFor, ht, hd, hf, Nat.not_le.mpr hf]
    · simp [tickFor, ht, hd, Nat.not_le.mpr hf]

/-! ## Reset, font and load -/

/-- Settles O54: unlisted memory reads as the font and zeros, and a glyph's address does not wrap. -/
theorem resetAndFontFollowTheConfiguration : Obligations.ResetAndFontFollowTheConfiguration := by
  intro p hp
  have hlen := hp.fontBytes
  refine ⟨State.resetFor_pc_toNat hp, fun k hk => ?_, fun a ha => ?_, fun x s => ⟨_, rfl, ?_, ?_, ?_⟩⟩
  · simp [State.resetFor_readByte, resetByte, hlen, hk]
  · rw [State.resetFor_readByte, resetByte]
    split
    · exact List.getD_eq_default _ _ (by omega)
    · rfl
  · rw [← lowNibble_val]
    exact glyphAddress_toNat_for hp _
  · intro part hpart
    have hsame := Part.same_rfl part s p
    cases part with
    | index => exact absurd (List.mem_singleton.mpr rfl) hpart
    | _ => exact hsame
  · simp

/-- Settles O55: a load that fits is a store of the image at `PROG_BASE`. -/
theorem loadFollowsTheConfiguration : Obligations.LoadFollowsTheConfiguration := by
  intro p s bytes rest hops
  have hstep : stepFor p s = loadProgram bytes { s with hostOps := rest } p := by
    simp only [stepFor, hostStepWith, hops, hostOpWith]
  rw [hstep]
  obtain ⟨hbig, hl⟩ | ⟨hfit, hl⟩ := loadProgram_cases bytes { s with hostOps := rest } p
  · exact ⟨fun hle => absurd hbig (Nat.not_lt.mpr hle), fun _ => hl⟩
  · refine ⟨fun _ => ⟨_, hl, fun k hk => ?_, fun a ha => ?_, rfl, rfl, ?_⟩, fun hgt => absurd hgt (Nat.not_lt.mpr hfit)⟩
    · simp [State.readByte_writeBytes, hk]
    · rw [State.readByte_writeBytes]
      split
      · rw [List.getElem?_eq_none (by omega), Option.getD_none]; rfl
      · rfl
    · intro part hpart
      have hsame := Part.same_rfl part s p
      cases part with
      | memory | hostSchedule => simp at hpart
      | _ => exact hsame

/-! ## This hardware -/

/-- Settles O51: the values are read off `hardware`, which `hardware_valid` shows valid. -/
theorem hardwareMeetsTheConstraints : Obligations.HardwareMeetsTheConstraints :=
  ⟨hardware_valid, by simp⟩

theorem execFor_hardware (i : Instr) (s : State) : execFor hardware i s = exec i s := by
  cases i <;> rfl

/-- Settles O52: ticks and steps are given their executor, and the two executors are one function. -/
theorem hardwareIsTheMachineAtItsConfiguration : Obligations.HardwareIsTheMachineAtItsConfiguration := by
  have hexec : execFor hardware = exec := funext fun i => funext (execFor_hardware i)
  refine ⟨rfl, fun s => ⟨fun i => execFor_hardware i s, ?_, ?_⟩⟩
  · rw [tickFor, hexec, tick]
  · rw [stepFor, hexec, step, hostStep]

end Sys2Proof.Machine
end

section
/-! PROOFS. The elements of the state (spec/10_state.md): which instructions write each (R21, R34), that every step keeps
the invariant (R33), and that no step reads ST, the diagnostic records or `stack[0]` (R24, R27, R215). -/

namespace Sys2Proof.Machine

/-! ## The invariant -/

/-- Settles O49: this hardware is one valid configuration, and every configuration's step keeps the invariant (O59). -/
theorem everyStepKeepsTheInvariant : Obligations.EveryStepKeepsTheInvariant := by
  intro s t hi h
  obtain ⟨-, hmachine⟩ := hardwareIsTheMachineAtItsConfiguration
  obtain ⟨-, -, hstep⟩ := hmachine s
  exact everyStepKeepsTheInvariantInEveryConfiguration hardware s t hardware_valid hi (hstep.trans h)

/-! ## What no step reads -/

/-- Two outcomes alike but for what no instruction reads: two next states that differ only there, or the same fault. -/
def Alike (o o' : Out) : Prop :=
  (∀ t, o = .next t → ∃ t', o' = .next t' ∧ DifferInUnread t t') ∧ ∀ f, o = .fault f → o' = .fault f

theorem Alike.next {t t' : State} (h : DifferInUnread t t') : Alike (.next t) (.next t') :=
  ⟨fun _ ht => by cases ht; exact ⟨t', rfl, h⟩, nofun⟩

theorem Alike.fault {f : Fault} : Alike (.fault f) (.fault f) :=
  ⟨nofun, fun _ hf => hf⟩

/-- Outcomes chosen by one condition are alike when both choices are. -/
theorem Alike.ite {c : Prop} [Decidable c] {a a' b b' : Out} (ha : c → Alike a a') (hb : ¬ c → Alike b b') :
    Alike (if c then a else b) (if c then a' else b') := by
  split
  · exact ha ‹c›
  · exact hb ‹¬ c›

theorem State.setSlot_comm (s : State) {j k : StackPtr} (w v : Word) (h : j ≠ k) :
    (s.setSlot j w).setSlot k v = (s.setSlot k v).setSlot j w := by
  have hne : j.toNat ≠ k.toNat := fun e => h (BitVec.eq_of_toNat_eq e)
  simp only [State.setSlot, Vector.set_comm _ _ hne]

theorem State.setSlot_slot_self (s : State) (k : StackPtr) : s.setSlot k (s.slot k) = s := by
  simp [State.setSlot, State.slot]

theorem DifferInUnread.refl (s : State) : DifferInUnread s s :=
  ⟨s.st, s.diagLog, s.slot 0, (s.setSlot_slot_self 0).symm⟩

theorem DifferInUnread.hostOps_eq {s s' : State} (h : DifferInUnread s s') : s'.hostOps = s.hostOps := by
  obtain ⟨_, _, _, rfl⟩ := h
  rfl

theorem DifferInUnread.withHostOps {s s' : State} (h : DifferInUnread s s') (ops : List HostOp) :
    DifferInUnread { s with hostOps := ops } { s' with hostOps := ops } := by
  obtain ⟨b, l, w, rfl⟩ := h
  exact ⟨b, l, w, rfl⟩

/-- No instruction reads ST, the diagnostic records or `stack[0]`: a return at SP 0 faults, and so does the call that would
wrap SP to 0. -/
theorem exec_alike (i : Instr) {s s' : State} (h : DifferInUnread s s') : Alike (exec i s) (exec i s') := by
  obtain ⟨b, l, w, rfl⟩ := h
  cases i with
  | ret =>
    refine .ite (fun _ => .fault) fun hsp => .next ⟨b, l, w, ?_⟩
    have hslot : State.slot ({ s with st := b, diagLog := l }.setSlot 0 w) s.sp = s.slot s.sp := by
      rw [State.slot_setSlot, if_neg (Ne.symm hsp)]; rfl
    exact congrArg (State.leavePc _) hslot
  | call nnn =>
    refine .ite (fun _ => .fault) fun hfull => .next ⟨b, l, w, ?_⟩
    have hne : (0 : StackPtr) ≠ s.sp + 1 := fun h0 => hfull ((stack_full_iff s.sp).mpr (by bv_omega))
    have hpush := State.setSlot_comm { s with sp := s.sp + 1, st := b, diagLog := l } w
      (handlerPc Config.pcQuirk s.pc) hne
    exact congrArg (State.leavePc · (pcOfAddr nnn)) hpush
  | drw | addI | ldB | storeRegs | loadRegs => exact .ite (fun _ => .fault) fun _ => .next ⟨b, l, w, rfl⟩
  | ldStVx x => exact .next ⟨s.reg x, l, w, rfl⟩
  | _ => exact .next ⟨b, l, w, rfl⟩

/-- R100: a tick fetches the same word; an Unimplemented one adds its record to either log. -/
theorem tick_alike {s s' : State} (h : DifferInUnread s s') : Alike (tick s) (tick s') := by
  have hexec := fun i => exec_alike i h
  obtain ⟨b, l, w, rfl⟩ := h
  refine .ite (fun _ => ?_) fun _ => .fault
  have hword : ({ s with st := b, diagLog := l }.setSlot 0 w).fetchWord = s.fetchWord := rfl
  rw [hword]
  cases decodeWord s.fetchWord with
  | ok i => exact hexec i
  | error e => exact .next ⟨b, l ++ [⟨s.fetchWord, s.pc⟩], w, rfl⟩

/-- R212: each operation of the host; a reset overwrites all three. -/
theorem hostOp_alike (op : HostOp) {s s' : State} (h : DifferInUnread s s') : Alike (hostOp op s) (hostOp op s') := by
  have htick := tick_alike h
  obtain ⟨b, l, w, rfl⟩ := h
  cases op with
  | reset => exact .next (.refl s.resetAgain)
  | loadProgram bytes =>
    simp only [hostOp, hostOpWith, loadProgram]
    exact .ite (fun _ => .fault) fun _ => .next ⟨b, l, w, rfl⟩
  | timerTick => exact .next ⟨countDown b, l, w, rfl⟩
  | tick => exact htick

theorem step_of_hostOps_nil {s : State} (h : s.hostOps = []) : step s = tick s := by
  simp only [step, hostStep, hostStepWith, h, tick]

theorem step_of_hostOps_cons {s : State} {op : HostOp} {rest : List HostOp} (h : s.hostOps = op :: rest) :
    step s = hostOp op { s with hostOps := rest } := by
  simp only [step, hostStep, hostStepWith, h, hostOp]

/-- Settles O50: both states hold the same schedule, so both tick or both take its next operation. -/
theorem unreadStateNeverMatters : Obligations.UnreadStateNeverMatters := by
  intro s s' h
  change Alike (step s) (step s')
  have hops := h.hostOps_eq
  cases hs : s.hostOps with
  | nil =>
    rw [step_of_hostOps_nil hs, step_of_hostOps_nil (hops.trans hs)]
    exact tick_alike h
  | cons op rest =>
    rw [step_of_hostOps_cons hs, step_of_hostOps_cons (hops.trans hs)]
    exact hostOp_alike op (h.withHostOps rest)

/-! ## Which instructions write each element -/

theorem eq_of_reg_setReg_ne {s : State} {x y : Reg} {b : Byte} (h : (s.setReg x b).reg y ≠ s.reg y) : x = y := by
  by_contra hne
  exact h (by rw [State.reg_setReg, if_neg hne])

theorem le_of_reg_loadBlock_ne {s : State} {x y : Reg} {a : Nat} {p : Params}
    (h : (s.loadBlock x a p).reg y ≠ s.reg y) : y ≤ x := by
  by_contra hle
  exact h (by rw [State.reg_loadBlock, if_neg hle])

/-- Settles O26: an instruction either writes the flag, or writes one destination (`Fx65`: those up to it), or no
register. -/
theorem onlyFlagWritersOrDestinationsChangeVf : Obligations.OnlyFlagWritersOrDestinationsChangeVf := by
  intro i s t h hne
  cases i with
  | addReg | subReg | shr | subnReg | shl | drw => exact .inl rfl
  | ldImm | addImm | ldReg | orReg | andReg | xorReg | ldVxDt =>
    cases h
    exact .inr (congrArg some (eq_of_reg_setReg_ne hne))
  | rnd =>
    cases h
    exact .inr (congrArg some (eq_of_reg_setReg_ne (s := s.randomDrawn) hne))
  | loadRegs x =>
    obtain ⟨-, rfl⟩ := State.checked_next.mp h
    rw [State.advance_reg] at hne
    exact .inr (congrArg some (Fin.last_le_iff.mp (le_of_reg_loadBlock_ne hne)))
  | ret =>
    obtain ⟨-, hr⟩ | ⟨-, hr⟩ := execRet_cases s <;> cases hr.symm.trans h
    exact absurd rfl hne
  | call nnn =>
    obtain ⟨-, hc⟩ | ⟨-, hc⟩ := execCall_cases nnn s <;> cases hc.symm.trans h
    exact absurd rfl hne
  | addI | ldB | storeRegs =>
    obtain ⟨-, rfl⟩ := State.checked_next.mp h
    exact absurd rfl hne
  | _ => cases h; exact absurd rfl hne

/-- Settles O46, one next state an instruction: its update leaves every element alone that R34 does not list it under.
A return and a call move SP by one without wrapping, because they fault at its two ends. -/
theorem onlyListedInstructionsWriteEachElement : Obligations.OnlyListedInstructionsWriteEachElement := by
  intro i s t h
  cases i with
  | ret =>
    obtain ⟨-, hr⟩ | ⟨hsp, hr⟩ := execRet_cases s <;> cases hr.symm.trans h
    have hpop : (s.sp - 1).toNat + 1 = s.sp.toNat := by bv_omega
    simpa using hpop
  | call nnn =>
    obtain ⟨-, hc⟩ | ⟨hsp, hc⟩ := execCall_cases nnn s <;> cases hc.symm.trans h
    simpa using hsp
  | drw x y n =>
    obtain ⟨-, -, hd⟩ | ⟨-, hd⟩ := execDrw_cases x y n s <;> cases hd.symm.trans h
    simp
  | addI | ldB | storeRegs | loadRegs =>
    obtain ⟨-, rfl⟩ := State.checked_next.mp h
    simp
  | _ => cases h; simp

end Sys2Proof.Machine
end

section
/-! PROOFS. Memory and fetch (spec/20_memory.md): the fetched word is big-endian (R51), and a fetch sees what a store before
it wrote (R63). -/

namespace Sys2Proof.Machine

/-! ## The fetched word -/

theorem wordOfBytes_toNat (hi lo : Byte) : (wordOfBytes hi lo).toNat = hi.toNat * 256 + lo.toNat :=
  toNat_append_eq hi lo

theorem State.fetchWord_toNat (s : State) (p : Params := hardware) :
    (s.fetchWord p).toNat = (s.readByte s.pc.toNat p).toNat * 256 + (s.readByte (s.pc.toNat + 1) p).toNat :=
  wordOfBytes_toNat _ _

/-- Settles O8: the word is its two bytes in base 256, and each field is a quotient and remainder of the word. -/
theorem fetchIsBigEndian : Obligations.FetchIsBigEndian := by
  intro s
  have hword := s.fetchWord_toNat
  have hlo := (s.readByte (s.pc.toNat + 1)).isLt
  obtain ⟨haddress, hx, hy, hn, hkk, -⟩ := Opcode.ofWord_toNat s.fetchWord
  rw [hword] at haddress hx hy hn hkk
  exact ⟨hword, by omega, by omega, by omega, by omega, BitVec.eq_of_toNat_eq (by omega)⟩

/-! ## A fetch after a store -/

/-- R154: what the block store leaves at the address of each register it stores. -/
theorem readByte_of_exec_storeRegs {x k : Reg} {s t : State} (h : exec (.storeRegs x) s = .next t) (hk : k ≤ x) :
    t.readByte (s.ea k.val) = s.reg k := by
  obtain ⟨-, rfl⟩ := State.checked_next.mp h
  have hoffset : s.ea k.val - s.ea 0 = k.val := Nat.add_sub_cancel_left _ _
  have hle : s.ea 0 ≤ s.ea k.val := Nat.le_add_right _ _
  rw [State.advance_readByte, State.readByte_writeBytes, if_pos hle, hoffset, State.regBlock_get s x k hk,
    Option.getD_some]

/-- Settles O33: the fetched word is read from memory, where each of its two bytes is the register stored there. -/
theorem nextFetchSeesTheStore : Obligations.NextFetchSeesTheStore := by
  intro x j k s t h hj hk hpc hpc1
  rw [State.fetchWord_toNat, hpc1, hpc, readByte_of_exec_storeRegs h hj, readByte_of_exec_storeRegs h hk]

end Sys2Proof.Machine
end

section
/-! PROOFS. The encoding (spec/30_encoding.md): the decoder and the encoder invert each other (R74, R92), the decoder agrees
with the opcode map, and the words it rejects are R76's. -/

namespace Sys2Proof

open Laws

/-! ## Decoding inverts encoding -/

/-- Settles O3, format by format: the decoder reads back the fields the encoder wrote, and a row count below 16 fits its
field. -/
theorem decodeInvertsEncode : Obligations.DecodeInvertsEncode := by
  intro i hwf
  cases i with
  | cls | ret => decide
  | jp | call | ldI | jpV0 => simp [decodeWord, classify, encode, Opcode.ofWord_encodeNNN]
  | seImm | sneImm | ldImm | addImm | rnd | skp | sknp =>
    simp [decodeWord, classify, encode, Opcode.ofWord_encodeXKK]
  | seReg | sneReg => simp [decodeWord, classify, encode, Opcode.ofWord_encodeXYN]
  | ldReg | orReg | andReg | xorReg | addReg | subReg | shr | subnReg | shl =>
    simp [decodeWord, classify, classify8, encode, Opcode.ofWord_encodeXYN]
  | drw x y n =>
    have hn : n < 16 := of_decide_eq_true hwf
    simp [decodeWord, classify, encode, Opcode.ofWord_encodeXYN, Nat.mod_eq_of_lt hn]
  | _ => simp [decodeWord, classify, classifyF, encode, Opcode.ofWord_encodeXKK]

/-! ## Encoding inverts decoding -/

theorem encodeNNN_of_toNat {w : Word} {op : BitVec 4} {nnn : BitVec 12}
    (ha : (Opcode.ofWord w).address.toNat = op.toNat) (hn : (Opcode.ofWord w).nnn.toNat = nnn.toNat) :
    encodeNNN op nnn = w := by
  rw [← BitVec.eq_of_toNat_eq ha, ← BitVec.eq_of_toNat_eq hn, Opcode.encodeNNN_fields]

theorem encodeXKK_of_toNat {w : Word} {op : BitVec 4} {kk : BitVec 8}
    (ha : (Opcode.ofWord w).address.toNat = op.toNat) (hk : (Opcode.ofWord w).kk.toNat = kk.toNat) :
    encodeXKK op (Opcode.ofWord w).rx kk = w := by
  rw [← BitVec.eq_of_toNat_eq ha, ← BitVec.eq_of_toNat_eq hk, Opcode.encodeXKK_fields]

theorem encodeXYN_of_toNat {w : Word} {op n : BitVec 4}
    (ha : (Opcode.ofWord w).address.toNat = op.toNat) (hn : (Opcode.ofWord w).n.toNat = n.toNat) :
    encodeXYN op (Opcode.ofWord w).rx (Opcode.ofWord w).ry n = w := by
  rw [← BitVec.eq_of_toNat_eq ha, ← BitVec.eq_of_toNat_eq hn, Opcode.encodeXYN_fields]

/-- R92, class 8: the sub-case is the `n` the encoder fixes. -/
theorem encode_of_classify8 {w : Word} {i : Instr} (ha : (Opcode.ofWord w).address.toNat = 0x8)
    (h : classify8 (Opcode.ofWord w) = .ok i) : i.wellFormed = true ∧ encode i = w := by
  unfold classify8 at h
  split at h <;> cases h
  all_goals exact ⟨rfl, encodeXYN_of_toNat ha ‹(Opcode.ofWord w).n.toNat = _›⟩

/-- R92, class F: the sub-case is the `kk` the encoder fixes. -/
theorem encode_of_classifyF {w : Word} {i : Instr} (ha : (Opcode.ofWord w).address.toNat = 0xF)
    (h : classifyF (Opcode.ofWord w) = .ok i) : i.wellFormed = true ∧ encode i = w := by
  unfold classifyF at h
  split at h <;> cases h
  all_goals exact ⟨rfl, encodeXKK_of_toNat ha ‹(Opcode.ofWord w).kk.toNat = _›⟩

/-- Settles O4, class by class: a class fixes the digit `address`, its sub-case the digits of `n`, `kk` or `nnn` that the
instruction does not hold, and a word is its fields. -/
theorem encodeInvertsDecode : Obligations.EncodeInvertsDecode := by
  intro w i h
  have haddress := (Opcode.ofWord w).address.isLt
  unfold decodeWord classify at h
  split at h
  case h_1 ha =>
    split_ifs at h with hcls hret <;> cases h
    · exact ⟨rfl, encodeNNN_of_toNat (op := 0x0) ha (congrArg BitVec.toNat hcls)⟩
    · exact ⟨rfl, encodeNNN_of_toNat (op := 0x0) ha (congrArg BitVec.toNat hret)⟩
  case h_2 ha | h_3 ha | h_11 ha | h_12 ha =>
    cases h
    exact ⟨rfl, encodeNNN_of_toNat ha rfl⟩
  case h_4 ha | h_5 ha | h_7 ha | h_8 ha | h_13 ha =>
    cases h
    exact ⟨rfl, encodeXKK_of_toNat ha rfl⟩
  case h_6 ha | h_10 ha =>
    split_ifs at h with hn
    cases h
    exact ⟨rfl, encodeXYN_of_toNat ha (congrArg BitVec.toNat hn)⟩
  case h_9 ha => exact encode_of_classify8 ha h
  case h_14 ha =>
    cases h
    have hn := (Opcode.ofWord w).n.isLt
    exact ⟨decide_eq_true hn, encodeXYN_of_toNat ha (Nat.mod_eq_of_lt hn).symm⟩
  case h_15 ha =>
    split_ifs at h with hskp hsknp <;> cases h
    · exact ⟨rfl, encodeXKK_of_toNat ha (congrArg BitVec.toNat hskp)⟩
    · exact ⟨rfl, encodeXKK_of_toNat ha (congrArg BitVec.toNat hsknp)⟩
  case h_16 => exact encode_of_classifyF (by grind) h

/-! ## The opcode map -/

/-- R74: what the mask of most rows fixes. -/
theorem Opcode.address_of_maskOp {w v : Word} (h : w &&& 0xF000 = v) :
    (Opcode.ofWord w).address = v.extractLsb' 12 4 := by
  rw [← h, BitVec.extractLsb'_and]
  exact (and_ones _).symm

/-- R74: what the mask of the rows of classes 5, 8 and 9 fixes. -/
theorem Opcode.address_n_of_maskOpN {w v : Word} (h : w &&& 0xF00F = v) :
    (Opcode.ofWord w).address = v.extractLsb' 12 4 ∧ (Opcode.ofWord w).n = v.extractLsb' 0 4 := by
  rw [← h, BitVec.extractLsb'_and, BitVec.extractLsb'_and]
  exact ⟨(and_ones _).symm, (and_ones _).symm⟩

/-- R74: what the mask of the rows of classes E and F fixes. -/
theorem Opcode.address_kk_of_maskOpKk {w v : Word} (h : w &&& 0xF0FF = v) :
    (Opcode.ofWord w).address = v.extractLsb' 12 4 ∧ (Opcode.ofWord w).kk = v.extractLsb' 0 8 := by
  rw [← h, BitVec.extractLsb'_and, BitVec.extractLsb'_and]
  exact ⟨(and_ones _).symm, (and_allOnes _).symm⟩

/-- The fields a row's mask fixes are the ones the decoder tests. -/
theorem decodeWord_of_matchesWord {w : Word} {i : Instr} (h : i.row.matchesWord w = true) :
    ∃ j, decodeWord w = .ok j ∧ j.row = i.row := by
  have hmask : w &&& i.row.mask = i.row.value := eq_of_beq h
  cases i with
  | cls | ret =>
    obtain rfl := BitVec.and_allOnes.symm.trans hmask
    exact ⟨_, rfl, rfl⟩
  | jp | call | seImm | sneImm | ldImm | addImm | ldI | jpV0 | rnd | drw =>
    simp only [Instr.row] at hmask
    have ha := Opcode.address_of_maskOp hmask
    simp [decodeWord, classify, ha, Instr.row]
  | seReg | sneReg | ldReg | orReg | andReg | xorReg | addReg | subReg | shr | subnReg | shl =>
    simp only [Instr.row] at hmask
    obtain ⟨ha, hn⟩ := Opcode.address_n_of_maskOpN hmask
    simp [decodeWord, classify, classify8, ha, hn, Instr.row]
  | _ =>
    simp only [Instr.row] at hmask
    obtain ⟨ha, hk⟩ := Opcode.address_kk_of_maskOpKk hmask
    simp [decodeWord, classify, classifyF, ha, hk, Instr.row]

/-- R74: the rows of the map are those of the 33 instructions. -/
theorem mem_opcodeTable_iff (r : OpcodeRow) : r ∈ opcodeTable ↔ ∃ i : Instr, i.row = r := by
  constructor
  · revert r
    simp [opcodeTable, opcodeTableLow, opcodeTableHigh]
  · rintro ⟨i, rfl⟩ -- a row keeps no operand, so membership evaluates
    cases i <;> exact of_decide_eq_true rfl

/-- R74: the word of every instruction matches the instruction's row. -/
theorem row_matchesWord_encode : ∀ i : Instr, i.row.matchesWord (encode i) = true
  | .cls => RowMatch.cls
  | .ret => RowMatch.ret
  | .jp nnn => RowMatch.jp nnn
  | .call nnn => RowMatch.call nnn
  | .seImm x kk => RowMatch.seImm x kk
  | .sneImm x kk => RowMatch.sneImm x kk
  | .seReg x y => RowMatch.seReg x y
  | .ldImm x kk => RowMatch.ldImm x kk
  | .addImm x kk => RowMatch.addImm x kk
  | .ldReg x y => RowMatch.ldReg x y
  | .orReg x y => RowMatch.orReg x y
  | .andReg x y => RowMatch.andReg x y
  | .xorReg x y => RowMatch.xorReg x y
  | .addReg x y => RowMatch.addReg x y
  | .subReg x y => RowMatch.subReg x y
  | .shr x y => RowMatch.shr x y
  | .subnReg x y => RowMatch.subnReg x y
  | .shl x y => RowMatch.shl x y
  | .sneReg x y => RowMatch.sneReg x y
  | .ldI nnn => RowMatch.ldI nnn
  | .jpV0 nnn => RowMatch.jpV0 nnn
  | .rnd x kk => RowMatch.rnd x kk
  | .drw x y n => RowMatch.drw x y n
  | .skp x => RowMatch.skp x
  | .sknp x => RowMatch.sknp x
  | .ldVxDt x => RowMatch.ldVxDt x
  | .ldDtVx x => RowMatch.ldDtVx x
  | .ldStVx x => RowMatch.ldStVx x
  | .addI x => RowMatch.addI x
  | .ldF x => RowMatch.ldF x
  | .ldB x => RowMatch.ldB x
  | .storeRegs x => RowMatch.storeRegs x
  | .loadRegs x => RowMatch.loadRegs x

/-- Settles O5: a word that decodes is its instruction's encoding (O4); and two rows a word matches are both the row of
the one instruction it decodes to. -/
theorem decoderAgreesWithOpcodeMap : Obligations.DecoderAgreesWithOpcodeMap := by
  have decodes : ∀ (w : Word) (r : OpcodeRow), r ∈ opcodeTable → r.matchesWord w = true →
      ∃ i, decodeWord w = .ok i ∧ i.row = r := by
    intro w r hr hm
    obtain ⟨i, rfl⟩ := (mem_opcodeTable_iff r).mp hr
    exact decodeWord_of_matchesWord hm
  refine ⟨fun w i h => ?_, decodes, fun r₁ h₁ r₂ h₂ w hm₁ hm₂ => ?_⟩
  · obtain ⟨-, rfl⟩ := encodeInvertsDecode w i h
    exact ⟨(mem_opcodeTable_iff _).mpr ⟨i, rfl⟩, row_matchesWord_encode i⟩
  · obtain ⟨i, hi, rfl⟩ := decodes w r₁ h₁ hm₁
    obtain ⟨j, hj, rfl⟩ := decodes w r₂ h₂ hm₂
    cases hi.symm.trans hj
    rfl

/-! ## The Unimplemented words -/

/-- R76, class 8. -/
theorem classify8_error_iff (f : Opcode) :
    (∃ e, classify8 f = .error e) ↔ f.n.toNat ∈ [0x8, 0x9, 0xA, 0xB, 0xC, 0xD, 0xF] := by
  have hn := f.n.isLt
  fun_cases classify8 f
  case case10 => grind
  all_goals simp [*]

/-- R76, class F. -/
theorem classifyF_error_iff (f : Opcode) :
    (∃ e, classifyF f = .error e) ↔ f.kk.toNat ∉ [0x07, 0x15, 0x18, 0x1E, 0x29, 0x33, 0x55, 0x65] := by
  fun_cases classifyF f
  case case9 => simp_all [imp_false]
  all_goals simp [*]

/-- Settles O6, branch by branch of `Classify`: in each class, R76's one condition on that class is the decoder's test. -/
theorem unimplementedWordsAreExactlyTheListedClasses : Obligations.UnimplementedWordsAreExactlyTheListedClasses := by
  intro w
  have hclass := (Opcode.ofWord w).address.isLt
  obtain ⟨haddress, -, -, hn, hkk, hnnn⟩ := Opcode.ofWord_toNat w
  rw [← haddress, ← hn, ← hkk]
  unfold decodeWord
  fun_cases classify (Opcode.ofWord w)
  case case1 ha h0 | case2 ha _ h0 =>
    have hw : (Opcode.ofWord w).nnn.toNat = w.toNat := by omega
    simp [ha, ← hw, h0]
  case case3 ha hcls hret =>
    have hw : (Opcode.ofWord w).nnn.toNat = w.toNat := by omega
    simpa [ha, ← hw, BitVec.toNat_eq] using And.intro hcls hret
  case case9 ha h0 | case14 ha h0 => simpa [ha, BitVec.toNat_eq] using h0
  case case12 ha => simp [classify8_error_iff, ha]
  case case21 ha hskp hsknp => simpa [ha, BitVec.toNat_eq] using And.intro hskp hsknp
  case case22 =>
    have ha : (Opcode.ofWord w).address.toNat = 0xF := by grind
    simp [classifyF_error_iff, ha]
  case case8 ha h0 | case13 ha h0 | case19 ha h0 | case20 ha _ h0 => simp [ha, h0]
  all_goals simp [‹(Opcode.ofWord w).address.toNat = _›]

end Sys2Proof
end

section
/-! PROOFS. The decoder (spec/40_decoder.md): the fields of a word (R90, R91), and the sample words of R94. -/

namespace Sys2Proof.Machine

/-! ## The fields of a word -/

/-- Settles O1: each field is a quotient and remainder of the word, and three of them are digits of two others and of the
word (R91 (c)). -/
theorem decoderFieldsAreTheWordsBits : Obligations.DecoderFieldsAreTheWordsBits := by
  intro w
  obtain ⟨haddress, hx, hy, hn, hkk, hnnn⟩ := Opcode.ofWord_toNat w
  exact ⟨haddress, hx, hy, hn, hkk, hnnn, by omega, by omega, by omega⟩

/-! ## Sample words -/

/-- The word of a well-formed instruction is the value of its encoding (O3). -/
theorem hasWord_of_encode_toNat {i : Instr} {n : Nat} (hwf : i.wellFormed = true) (hn : (encode i).toNat = n) :
    HasWord i n := by
  subst hn
  refine ⟨(encode i).isLt, ?_⟩
  rw [BitVec.ofNat_toNat, BitVec.setWidth_eq]
  exact decodeInvertsEncode i hwf

/-- Settles O2: the six words of instructions are their encodings' values; the four others reach the last branch of their
class. -/
theorem sampleWordsDecode : Obligations.SampleWordsDecode :=
  ⟨hasWord_of_encode_toNat rfl rfl, hasWord_of_encode_toNat rfl rfl, hasWord_of_encode_toNat rfl rfl,
    hasWord_of_encode_toNat rfl rfl, hasWord_of_encode_toNat rfl rfl, hasWord_of_encode_toNat rfl rfl,
    by decide, by decide, by decide, by decide⟩

end Sys2Proof.Machine
end

section
/-! PROOFS. The executor's tick (spec/41_executor_tick.md): what a tick runs (R100, R101, R105), which instructions fault and
what a fault leaves (R106 to R108), and the PC rule (R102, R103). -/

namespace Sys2Proof.Machine

/-! ## What a tick runs -/

/-- R100: an instruction fetched inside memory is run. -/
theorem tickWith_of_ok {ex : Instr → State → Out} {s : State} {p : Params} {i : Instr}
    (hf : s.pc.toNat + 1 < p.memSize) (hd : decodeWord (s.fetchWord p) = .ok i) : tickWith ex s p = ex i s := by
  simp only [tickWith, State.fetchable, hf, hd, decide_true, if_true]

/-- R105: an Unimplemented word fetched inside memory is logged. -/
theorem tickWith_of_error {ex : Instr → State → Out} {s : State} {p : Params} {e : DecodeReject}
    (hf : s.pc.toNat + 1 < p.memSize) (hd : decodeWord (s.fetchWord p) = .error e) :
    tickWith ex s p = .next (s.unimplemented (s.fetchWord p) p) := by
  simp only [tickWith, State.fetchable, hf, hd, decide_true, if_true]

/-- The three things a tick of this hardware can do. -/
theorem tick_cases (s : State) :
    (Config.memSize ≤ s.pc.toNat + 1 ∧ tick s = .fault (.memoryFault .fetch s.pc.toNat s.pc)) ∨
    (s.pc.toNat + 1 < Config.memSize ∧ ∃ i, decodeWord s.fetchWord = .ok i ∧ tick s = exec i s) ∨
    (s.pc.toNat + 1 < Config.memSize ∧ ∃ e, decodeWord s.fetchWord = .error e ∧
      tick s = .next (s.unimplemented s.fetchWord)) :=
  tickWith_cases exec s

/-- R51, R70: two bytes decode to an instruction when their word does. -/
theorem decodeWord_of_decodeBytes {hi lo : Byte} {i : Instr} (h : decodeBytes [hi, lo] = .ok (i, [])) :
    decodeWord (wordOfBytes hi lo) = .ok i := by
  cases hd : decodeWord (wordOfBytes hi lo) with
  | ok j => simp only [decodeBytes, hd] at h; cases h; rfl
  | error e => simp only [decodeBytes, hd] at h; cases h

/-- Settles O7: the two bytes are the fetched word, and taking the tick off the schedule changes neither it nor the pc. -/
theorem stepRunsTheDecodedInstruction : Obligations.StepRunsTheDecodedInstruction := by
  intro s i hf hbytes
  have hd : decodeWord s.fetchWord = .ok i := decodeWord_of_decodeBytes hbytes
  refine ⟨fun hops => ?_, fun rest hops => ?_⟩
  · rw [step_of_hostOps_nil hops]
    exact tickWith_of_ok hf hd
  · rw [step_of_hostOps_cons hops]
    exact tickWith_of_ok (s := { s with hostOps := rest }) hf hd

/-! ## The PC rule -/

/-- R102: `pc_h` plus `POST` is the next instruction's address under either setting of `PC_QUIRK`. -/
theorem handlerPc_add_postAdd (q : Bool) (ia : Word) : handlerPc q ia + postAdd q = ia + 2 := by
  cases q <;> simp [handlerPc, postAdd]

/-- R103: `POST` does not wrap a target that leaves it room. -/
theorem toNat_add_postAdd {w : Word} (q : Bool) (hw : w.toNat + 2 < 65536) :
    (w + postAdd q).toNat = w.toNat + if q then 2 else 0 := by
  cases q
  · simp [postAdd]
  · simp only [postAdd, if_true]; bv_omega

/-- R111, R112: where a transfer to `nnn` lands. -/
theorem pcOfAddr_add_postAdd_toNat (nnn : Addr) (q : Bool) :
    (pcOfAddr nnn + postAdd q).toNat = nnn.toNat + if q then 2 else 0 := by
  have hnnn := pcOfAddr_toNat nnn
  have := nnn.isLt
  rw [toNat_add_postAdd q (by omega), hnnn]

theorem pcOfAddr_add_pcOfByte_toNat (nnn : Addr) (b : Byte) :
    (pcOfAddr nnn + pcOfByte b).toNat = nnn.toNat + b.toNat := by
  have := nnn.isLt
  have := b.isLt
  rw [BitVec.toNat_add, pcOfAddr_toNat, pcOfByte_toNat]; omega

/-- R111: where `1nnn` lands, `POST` included. -/
theorem execFor_jp_pc {p : Params} {nnn : Addr} {s t : State} (h : execFor p (.jp nnn) s = .next t) :
    t.pc.toNat = nnn.toNat + if p.pcQuirk then 2 else 0 := by
  cases h
  exact pcOfAddr_add_postAdd_toNat nnn p.pcQuirk

/-- R117: where `Bnnn` lands, `POST` included. -/
theorem execFor_jpV0_pc {p : Params} {nnn : Addr} {s t : State} (h : execFor p (.jpV0 nnn) s = .next t) :
    t.pc.toNat = nnn.toNat + (s.reg 0).toNat + if p.pcQuirk then 2 else 0 := by
  cases h
  have hsum := pcOfAddr_add_pcOfByte_toNat nnn (s.reg vZero)
  have := nnn.isLt
  have := (s.reg vZero).isLt
  rw [State.leavePc_pc, toNat_add_postAdd _ (by omega), hsum]
  rfl

/-- R112: where `2nnn` lands, `POST` included, and the `pc_h` it pushes. -/
theorem execFor_call_pc {p : Params} {nnn : Addr} {s t : State} (h : execFor p (.call nnn) s = .next t) :
    t.pc.toNat = (nnn.toNat + if p.pcQuirk then 2 else 0) ∧ t.slot t.sp = handlerPc p.pcQuirk s.pc := by
  obtain ⟨-, hc⟩ | ⟨-, hc⟩ := execCall_cases nnn s p <;> cases hc.symm.trans h
  exact ⟨pcOfAddr_add_postAdd_toNat nnn p.pcQuirk, by simp [State.slot_setSlot]⟩

/-- R110: where `00EE` lands, `POST` included. -/
theorem execFor_ret_pc {p : Params} {s t : State} (h : execFor p .ret s = .next t) :
    t.pc = s.slot s.sp + postAdd p.pcQuirk := by
  obtain ⟨-, hr⟩ | ⟨-, hr⟩ := execRet_cases s p <;> cases hr.symm.trans h
  rfl

/-- R120: a skip ends at `ia + 2` or `ia + 4`. -/
theorem execFor_skip_pc {p : Params} {i : Instr} {s t : State} (h : execFor p i s = .next t) (hskip : isSkip i = true) :
    t.pc = s.pc + 2 ∨ t.pc = s.pc + 4 := by
  have hpc (u : State) (taken : Bool) : (u.skipIf taken p.pcQuirk).pc = u.pc + 2 ∨
      (u.skipIf taken p.pcQuirk).pc = u.pc + 4 := by
    cases taken <;> simp
  cases i with
  | seImm | sneImm | seReg | sneReg => cases h; exact hpc s _
  | skp | sknp => cases h; exact hpc s.keysSampled _
  | _ => cases hskip

/-- R103: an instruction that is neither a skip nor a transfer ends at `ia + 2`. -/
theorem execFor_advance_pc {p : Params} {i : Instr} {s t : State} (h : execFor p i s = .next t)
    (hskip : isSkip i = false) (htransfer : isTransfer i = false) : t.pc = s.pc + 2 := by
  cases i with
  | ret | jp | call | jpV0 => cases htransfer
  | seImm | sneImm | seReg | sneReg | skp | sknp => cases hskip
  | drw x y n =>
    obtain ⟨-, -, hd⟩ | ⟨-, hd⟩ := execDrw_cases x y n s p <;> cases hd.symm.trans h
    exact State.advance_pc _ _
  | addI | ldB | storeRegs | loadRegs =>
    obtain ⟨-, rfl⟩ := State.checked_next.mp h
    exact State.advance_pc _ _
  | _ => cases h; exact State.advance_pc _ _

/-- Settles O14, a row of R103's table at a time: the four transfers, the skips, and the rest. -/
theorem finalPcFollowsThePcRule : Obligations.FinalPcFollowsThePcRule := by
  refine ⟨fun q s taken => ⟨s.advance_pc q, s.skipIf_pc taken q⟩, execFor_hardware, fun q i s t h => ?_⟩
  refine ⟨?_, ?_, ?_, ?_, execFor_skip_pc h, execFor_advance_pc h⟩
  · rintro nnn rfl; exact execFor_jp_pc h
  · rintro nnn rfl; exact execFor_jpV0_pc h
  · rintro nnn rfl; exact execFor_call_pc h
  · rintro rfl; exact execFor_ret_pc h

/-! ## Unimplemented words -/

/-- R105: the no-op is one state under both settings of `PC_QUIRK`, since both advance the pc by 2. -/
theorem State.unimplemented_eq (s : State) (w : Word) (p : Params) :
    s.unimplemented w p = { s with diagLog := s.diagLog ++ [⟨w, s.pc⟩], pc := s.pc + 2 } :=
  congrArg (fun ia : Word => { s with diagLog := s.diagLog ++ [DiagRecord.mk w s.pc], pc := ia })
    (handlerPc_add_postAdd p.pcQuirk s.pc)

theorem State.sameBut_unimplemented (s : State) (w : Word) (p r : Params) :
    SameBut [.diagnostics] s (s.unimplemented w p) r := by
  intro part hpart
  have hsame := Part.same_rfl part s r
  cases part with
  | diagnostics => simp at hpart
  | _ => exact hsame

/-- Settles O10: the step is a tick, and a tick of an Unimplemented word is the same logged no-op under both settings. -/
theorem unimplementedWordIsALoggedNoOp : Obligations.UnimplementedWordIsALoggedNoOp := by
  intro s e hops hf hd
  refine ⟨s.unimplemented s.fetchWord, ?_, fun q => ?_, s.unimplemented_pc _ _, rfl, s.sameBut_unimplemented _ _ _⟩
  · rw [step_of_hostOps_nil hops]
    exact tickWith_of_error hf hd
  · have hword := s.fetchWord_hardwareWithQuirk q
    rw [tickUnder, tickFor, tickWith_of_error hf (hword ▸ hd), hword, State.unimplemented_eq, State.unimplemented_eq]

/-! ## Faults -/

/-- Settles O11: this hardware is one configuration, so its faults are O53's, with the stack full at `SP = 15`. -/
theorem instructionsFaultExactlyWhenListed : Obligations.InstructionsFaultExactlyWhenListed := by
  obtain ⟨hfault, hrefused, htick⟩ := faultsFollowTheConfiguration
  obtain ⟨-, hmachine⟩ := hardwareIsTheMachineAtItsConfiguration
  refine ⟨fun i s f => ?_, fun i s r => ?_, fun s f => ?_⟩
  · simpa only [execFor_hardware, stack_full_iff, hardware_memSize] using hfault hardware i s f
  · simpa only [execFor_hardware] using hrefused hardware i s r
  · obtain ⟨-, ht, -⟩ := hmachine s
    simpa only [execFor_hardware, ht, hardware_memSize] using htick hardware s f

/-- R107, R201, R202: an instruction's fault is a `StackFault`, or a `MemoryFault` of another access than a fetch. -/
theorem exec_fault_kind {i : Instr} {s : State} {f : Fault} (h : exec i s = .fault f) :
    (∃ op ia, f = .stackFault op ia) ∨ ∃ acc a ia, f = .memoryFault acc a ia ∧ acc ≠ .fetch := by
  obtain ⟨hlisted, -, -⟩ := instructionsFaultExactlyWhenListed
  obtain ⟨-, -, rfl⟩ | ⟨_, -, -, rfl⟩ | ⟨_, -, -, rfl⟩ | ⟨_, -, -, rfl⟩ | ⟨_, -, -, rfl⟩ | ⟨_, -, -, rfl⟩ |
    ⟨_, _, _, -, -, -, rfl⟩ := (hlisted i s f).mp h
  · exact .inl ⟨_, _, rfl⟩
  · exact .inl ⟨_, _, rfl⟩
  all_goals exact .inr ⟨_, _, _, rfl, nofun⟩

theorem exec_ne_fetchFault (i : Instr) (s : State) (a : Nat) (ia : Word) :
    exec i s ≠ .fault (.memoryFault .fetch a ia) := by
  intro h
  obtain ⟨_, _, hstack⟩ | ⟨_, _, _, hmem, hacc⟩ := exec_fault_kind h
  · cases hstack
  · cases hmem; exact hacc rfl

/-- Settles O9: inside memory a tick is its instruction or a logged no-op, and neither raises the fetch's fault. -/
theorem fetchFaultsExactlyOutsideMemory : Obligations.FetchFaultsExactlyOutsideMemory := by
  intro s a ia
  obtain ⟨hf, ht⟩ | ⟨hf, i, -, ht⟩ | ⟨hf, e, -, ht⟩ := tick_cases s
  · rw [ht, fault_eq_fault]
    simp [hf]
  · exact iff_of_false (ht ▸ exec_ne_fetchFault i s a ia) fun h => Nat.not_le.mpr hf h.1
  · exact iff_of_false (ht ▸ nofun) fun h => Nat.not_le.mpr hf h.1

/-- R108: no tick is refused. -/
theorem tick_ne_refused (s : State) (r : Refusal) : tick s ≠ .refused r := by
  obtain ⟨-, hexec, -⟩ := instructionsFaultExactlyWhenListed
  obtain ⟨-, ht⟩ | ⟨-, i, -, ht⟩ | ⟨-, e, -, ht⟩ := tick_cases s <;> rw [ht]
  · nofun
  · exact hexec i s r
  · nofun

/-- R212: no operation of the host is refused. -/
theorem hostOp_ne_refused (op : HostOp) (s : State) (r : Refusal) : hostOp op s ≠ .refused r := by
  cases op with
  | reset | timerTick => nofun
  | loadProgram bytes =>
    intro h
    obtain ⟨-, hl⟩ | ⟨-, hl⟩ := loadProgram_cases bytes s <;> cases hl.symm.trans h
  | tick => exact tick_ne_refused s r

/-- Settles O12: a step is a tick or the next operation on the host's schedule. -/
theorem noStepIsRefused : Obligations.NoStepIsRefused := by
  intro s r
  obtain ⟨-, hs⟩ | ⟨op, rest, -, hs⟩ := step_cases s <;> rw [hs]
  · exact tick_ne_refused s r
  · exact hostOp_ne_refused op _ r

/-! ## What a tick call hands back -/

theorem State.tickDiag_of_outside {s : State} (hf : Config.memSize ≤ s.pc.toNat + 1) : s.tickDiag = none := by
  have hfetch : s.fetchable = false := decide_eq_false (Nat.not_lt.mpr hf)
  simp only [State.tickDiag, hfetch]

theorem State.tickDiag_of_ok {s : State} {i : Instr} (hd : decodeWord s.fetchWord = .ok i) : s.tickDiag = none := by
  unfold State.tickDiag
  rw [hd]
  cases s.fetchable <;> rfl

theorem State.tickDiag_of_error {s : State} {e : DecodeReject} (hf : s.pc.toNat + 1 < Config.memSize)
    (hd : decodeWord s.fetchWord = .error e) : s.tickDiag = some ⟨s.fetchWord, s.pc⟩ := by
  have hfetch : s.fetchable = true := decide_eq_true hf
  simp only [State.tickDiag, hfetch, hd]

/-- R106, R207: a call that faults leaves the state it found. -/
theorem State.afterTick_of_fault {s : State} {f : Fault} (h : tick s = .fault f) : s.afterTick = s := by
  simp only [State.afterTick, h]

/-- R215: no record goes with a fault. -/
theorem State.tickDiag_of_fault {s : State} {f : Fault} (h : tick s = .fault f) : s.tickDiag = none := by
  obtain ⟨-, -, htick⟩ := instructionsFaultExactlyWhenListed
  obtain ⟨hf, -⟩ | ⟨-, i, hd, -⟩ := (htick s f).mp h
  · exact State.tickDiag_of_outside hf
  · exact State.tickDiag_of_ok hd

/-- R200: a tick's fault is a `StackFault` or a `MemoryFault`. -/
theorem tick_fault_kind {s : State} {f : Fault} (h : tick s = .fault f) :
    (∃ op ia, f = .stackFault op ia) ∨ ∃ acc a ia, f = .memoryFault acc a ia := by
  obtain ⟨-, -, htick⟩ := instructionsFaultExactlyWhenListed
  obtain ⟨-, rfl⟩ | ⟨-, i, -, hexec⟩ := (htick s f).mp h
  · exact .inr ⟨_, _, _, rfl⟩
  · exact (exec_fault_kind hexec).imp_right fun ⟨acc, a, ia, hmem, _⟩ => ⟨acc, a, ia, hmem⟩

/-- R31, D13: the code of the fault a tick raises. -/
theorem faultCode_of_tick_fault {s : State} {f : Fault} (h : tick s = .fault f) :
    (∃ op ia, f = .stackFault op ia ∧ faultCode (tick s) = 1) ∨
      ∃ acc a ia, f = .memoryFault acc a ia ∧ faultCode (tick s) = 2 := by
  rw [h]
  obtain ⟨op, ia, rfl⟩ | ⟨acc, a, ia, rfl⟩ := tick_fault_kind h
  · exact .inl ⟨op, ia, rfl, rfl⟩
  · exact .inr ⟨acc, a, ia, rfl, rfl⟩

/-- R34, R215: no instruction writes the diagnostic log. -/
theorem exec_diagLog {i : Instr} {s t : State} (h : exec i s = .next t) : t.diagLog = s.diagLog := by
  obtain ⟨-, -, -, -, -, -, -, -, -, hlog, -⟩ := onlyListedInstructionsWriteEachElement i s t h
  exact hlog

/-- R215: a tick that goes on adds its record, if it emits one, and nothing else to the log. -/
theorem tick_diagLog {s t : State} (h : tick s = .next t) : t.diagLog = s.diagLog ++ s.tickDiag.toList := by
  obtain ⟨-, ht⟩ | ⟨-, i, hd, ht⟩ | ⟨hf, e, hd, ht⟩ := tick_cases s
  · cases ht.symm.trans h
  · rw [State.tickDiag_of_ok hd, exec_diagLog (ht.symm.trans h), Option.toList_none, List.append_nil]
  · cases ht.symm.trans h
    rw [State.tickDiag_of_error hf hd]
    rfl

/-- Settles O13: a fault leaves the state it found, so the next tick is the same tick. -/
theorem faultingTickChangesNothingAndRepeats : Obligations.FaultingTickChangesNothingAndRepeats := by
  refine ⟨fun s f h => ?_, fun s t h => ?_⟩
  · have hafter := State.afterTick_of_fault h
    exact ⟨hafter, State.tickDiag_of_fault h, hafter.symm ▸ h, faultCode_of_tick_fault h⟩
  · exact ⟨h ▸ rfl, tick_diagLog h⟩

/-! ## A call and its return -/

theorem State.sameBut_pop (s : State) (k : StackPtr) (w : Word) (q : Bool) (p : Params) :
    SameBut [.stackPointer] s ({ s with sp := k }.leavePc w q) p := by
  intro part hpart
  have hsame := Part.same_rfl part s p
  cases part with
  | stackPointer => simp at hpart
  | _ => exact hsame

/-- R112: a call answers a next state when the stack is not full; SP is one more and the slot it names holds `pc_h`. -/
theorem execUnder_call (q : Bool) (nnn : Addr) {s : State} (hsp : s.sp ≠ 15) :
    ∃ t, execUnder q (.call nnn) s = .next t ∧ t.sp = s.sp + 1 ∧ t.slot t.sp = handlerPc q s.pc := by
  obtain ⟨hfull, -⟩ | ⟨-, hc⟩ := execCall_cases nnn s (hardwareWithQuirk q)
  · exact absurd ((stack_full_iff s.sp).mp hfull) hsp
  · obtain ⟨-, hslot⟩ := execFor_call_pc hc
    exact ⟨_, hc, rfl, hslot⟩

/-- R110: a return answers a next state when the stack is not empty. -/
theorem execUnder_ret (q : Bool) {s : State} (hsp : s.sp ≠ 0) :
    execUnder q .ret s = .next ({ s with sp := s.sp - 1 }.leavePc (s.slot s.sp) q) := by
  obtain ⟨hempty, -⟩ | ⟨-, hr⟩ := execRet_cases s (hardwareWithQuirk q)
  · exact absurd hempty hsp
  · exact hr

/-- Settles O18: the return pops the `pc_h` the call pushed, and `pc_h` plus `POST` is the address after the call. -/
theorem callThenReturnComesBack : Obligations.CallThenReturnComesBack := by
  intro q nnn s hsp
  obtain ⟨t, ht, htsp, hslot⟩ := execUnder_call q nnn hsp
  refine ⟨t, ht, fun t' hsp' hslot' => ?_⟩
  have hne : t'.sp ≠ 0 := by rw [hsp', htsp]; bv_omega
  refine ⟨_, execUnder_ret q hne, ?_, ?_, t'.sameBut_pop _ _ _ _⟩
  · rw [State.leavePc_pc, hsp', hslot', hslot, handlerPc_add_postAdd]
  · rw [State.leavePc_sp, hsp', htsp, BitVec.add_sub_cancel]

end Sys2Proof.Machine
end

section
/-! PROOFS. Control transfer (spec/42_control_flow.md): the jumps (R111, R117), the call and the return (R110, R112), and
the skips on registers and on keys (R113 to R116, R118 to R120). -/

namespace Sys2Proof.Machine

/-! ## What a control transfer leaves unchanged -/

theorem SameBut.refl (s : State) (p : Params) : SameBut [] s s p := fun part _ => Part.same_rfl part s p

/-- R102, R120: the pc is no part, so the write of it that ends a jump, a call or a skip changes none. -/
theorem SameBut.leavePc {changed : List Part} {s t : State} {p : Params} (h : SameBut changed s t p) (w : Word) (q : Bool) :
    SameBut changed s (t.leavePc w q) p := by
  intro part hpart
  have hsame := h part hpart
  cases part <;> exact hsame

theorem State.sameBut_push (s : State) (k : StackPtr) (w : Word) (p : Params) :
    SameBut [.stackPointer, .callStack] s ({ s with sp := k }.setSlot k w) p := by
  intro part hpart
  have hsame := Part.same_rfl part s p
  cases part with
  | stackPointer | callStack => simp at hpart
  | _ => exact hsame

theorem State.sameBut_keysSampled (s : State) (p : Params) : SameBut [.keyInput] s s.keysSampled p := by
  intro part hpart
  have hsame := Part.same_rfl part s p
  cases part with
  | keyInput => simp at hpart
  | _ => exact hsame

/-! ## Jumps -/

/-- R111, under either setting of `PC_QUIRK`. -/
theorem execUnder_jp (q : Bool) (nnn : Addr) (s : State) :
    ∃ t, execUnder q (.jp nnn) s = .next t ∧ (t.pc.toNat = nnn.toNat + if q then 2 else 0) ∧ SameBut [] s t :=
  ⟨_, rfl, execFor_jp_pc (p := hardwareWithQuirk q) rfl, (SameBut.refl s _).leavePc _ _⟩

/-- R117, under either setting of `PC_QUIRK`. -/
theorem execUnder_jpV0 (q : Bool) (nnn : Addr) (s : State) :
    ∃ t, execUnder q (.jpV0 nnn) s = .next t ∧ (t.pc.toNat = nnn.toNat + (s.reg 0).toNat + if q then 2 else 0) ∧
      SameBut [] s t :=
  ⟨_, rfl, execFor_jpV0_pc (p := hardwareWithQuirk q) rfl, (SameBut.refl s _).leavePc _ _⟩

/-- Settles O15: each jump at both settings of `PC_QUIRK`; `exec` is the setting false. -/
theorem jumpsLandOnTheirTargets : Obligations.JumpsLandOnTheirTargets := fun nnn s =>
  ⟨hasWord_of_encode_toNat rfl (encodeNNN_toNat ..), hasWord_of_encode_toNat rfl (encodeNNN_toNat ..),
    execUnder_jp false nnn s, execUnder_jpV0 false nnn s, execUnder_jp true nnn s, execUnder_jpV0 true nnn s⟩

/-! ## The call -/

/-- R112: a call with the stack not full, under either setting of `PC_QUIRK`; SP does not wrap. -/
theorem execUnder_call_pushes (q : Bool) (nnn : Addr) {s : State} (hsp : s.sp ≠ 15) :
    ∃ t, execUnder q (.call nnn) s = .next t ∧ t.sp.toNat = s.sp.toNat + 1 ∧ t.slot t.sp = handlerPc q s.pc ∧
      (∀ k, k ≠ t.sp → t.slot k = s.slot k) ∧ (t.pc.toNat = nnn.toNat + if q then 2 else 0) ∧
      SameBut [.stackPointer, .callStack] s t := by
  obtain ⟨hfull, -⟩ | ⟨-, hc⟩ := execCall_cases nnn s (hardwareWithQuirk q)
  · exact absurd ((stack_full_iff s.sp).mp hfull) hsp
  · obtain ⟨hpc, hslot⟩ := execFor_call_pc hc
    have hnew : (s.sp + 1).toNat = s.sp.toNat + 1 := by bv_omega
    exact ⟨_, hc, hnew, hslot, fun k hk => (State.slot_setSlot _ _ _ _).trans (if_neg (Ne.symm hk)), hpc,
      (s.sameBut_push _ _ _).leavePc _ _⟩

/-- R112, R201: a call with the stack full, under either setting of `PC_QUIRK`. -/
theorem execUnder_call_of_full (q : Bool) (nnn : Addr) {s : State} (hsp : s.sp = 15) :
    execUnder q (.call nnn) s = .fault (.stackFault .call s.pc) :=
  execCall_fault.mpr ⟨(stack_full_iff s.sp).mpr hsp, rfl⟩

/-- Settles O16: the call at both settings of `PC_QUIRK`, on both sides of `SP = 15`; `exec` is the setting false. -/
theorem callPushesThenJumps : Obligations.CallPushesThenJumps := fun nnn _ =>
  ⟨hasWord_of_encode_toNat rfl (encodeNNN_toNat ..),
    fun hsp => ⟨execUnder_call_pushes false nnn hsp, execUnder_call_pushes true nnn hsp⟩,
    fun hsp q => execUnder_call_of_full q nnn hsp, fun hsp => execUnder_call_of_full false nnn hsp⟩

/-! ## The return -/

/-- R110: a return with the stack not empty, under either setting of `PC_QUIRK`; SP does not wrap. -/
theorem execUnder_ret_pops (q : Bool) {s : State} (hsp : s.sp ≠ 0) :
    ∃ t, execUnder q .ret s = .next t ∧ t.pc = s.slot s.sp + postAdd q ∧ t.sp.toNat + 1 = s.sp.toNat ∧
      SameBut [.stackPointer] s t := by
  have hpop : (s.sp - 1).toNat + 1 = s.sp.toNat := by bv_omega
  exact ⟨_, execUnder_ret q hsp, rfl, hpop, s.sameBut_pop _ _ _ _⟩

/-- R110, R201: a return with the stack empty, under either setting of `PC_QUIRK`. -/
theorem execUnder_ret_of_empty (q : Bool) {s : State} (hsp : s.sp = 0) :
    execUnder q .ret s = .fault (.stackFault .ret s.pc) :=
  execRet_fault.mpr ⟨hsp, rfl⟩

/-- Settles O17: the return at both settings of `PC_QUIRK`, on both sides of `SP = 0`; `exec` is the setting false, which
adds nothing to the popped pc. -/
theorem returnPopsThenJumps : Obligations.ReturnPopsThenJumps := by
  refine ⟨hasWord_of_encode_toNat rfl rfl, fun s => ⟨fun hsp => ⟨?_, execUnder_ret_pops true hsp⟩,
    fun hsp q => execUnder_ret_of_empty q hsp, fun hsp => execUnder_ret_of_empty false hsp⟩⟩
  obtain ⟨t, ht, hpc, hsame⟩ := execUnder_ret_pops false hsp
  exact ⟨t, ht, hpc.trans (BitVec.add_zero _), hsame⟩

/-! ## Skips on registers and immediates -/

/-- R120: the skip of the opposite test. -/
theorem State.skipIf_not_pc (s : State) (b q : Bool) :
    (s.skipIf (!b) q).pc = if b then s.pc + 2 else s.pc + 4 := by
  cases b <;> simp

/-- R113, R115, R120: a skip taken when two bytes are equal. -/
theorem State.skipIf_beq_pc (s : State) (a b : Byte) (q : Bool) :
    (s.skipIf (a == b) q).pc = if a.toNat = b.toNat then s.pc + 4 else s.pc + 2 := by
  simp only [State.skipIf_pc, beq_iff_eq, BitVec.toNat_inj]

/-- R114, R116, R120: a skip taken when two bytes differ. -/
theorem State.skipIf_bne_pc (s : State) (a b : Byte) (q : Bool) :
    (s.skipIf (a != b) q).pc = if a.toNat = b.toNat then s.pc + 2 else s.pc + 4 := by
  simp only [bne, State.skipIf_not_pc, beq_iff_eq, BitVec.toNat_inj]

/-- Settles O19: two of the skips compare for equality and two for inequality, and bytes are equal when their values are. -/
theorem registerSkipsCompareAndSkip : Obligations.RegisterSkipsCompareAndSkip := by
  intro x y kk s
  have hsame (taken : Bool) : SameBut [] s (s.skipIf taken) := (SameBut.refl s _).leavePc _ _
  exact ⟨⟨hasWord_of_encode_toNat rfl (encodeXKK_toNat ..), hasWord_of_encode_toNat rfl (encodeXKK_toNat ..),
      hasWord_of_encode_toNat rfl (encodeXYN_toNat ..), hasWord_of_encode_toNat rfl (encodeXYN_toNat ..)⟩,
    ⟨_, rfl, hsame _, s.skipIf_beq_pc _ _ _⟩, ⟨_, rfl, hsame _, s.skipIf_bne_pc _ _ _⟩,
    ⟨_, rfl, hsame _, s.skipIf_beq_pc _ _ _⟩, ⟨_, rfl, hsame _, s.skipIf_bne_pc _ _ _⟩⟩

/-! ## Skips on keys -/

/-- R72: the word of a format-`X` instruction, its fixed digits first. -/
theorem encodeXKK_toNat_fixed (op : BitVec 4) (x : Reg) (kk : BitVec 8) :
    (encodeXKK op x kk).toNat = op.toNat * 4096 + kk.toNat + x.val * 256 :=
  (encodeXKK_toNat op x kk).trans (Nat.add_right_comm _ _ _)

/-- R30: the levels sampled are the next on the tape. -/
theorem State.keyLevels_of_cons {s : State} {l : BitVec 16} {rest : List (BitVec 16)} (h : s.keyTape = l :: rest) :
    s.keyLevels = l := by
  rw [State.keyLevels, h, List.headD_cons]

/-- R118, R119, D8: the key a register value names. -/
theorem State.keyDown_lowNibble (s : State) (b : Byte) :
    s.keyDown (lowNibble b) = s.keyLevels.getLsbD (b.toNat % 16) := by
  rw [State.keyDown, lowNibble_val]

/-- Settles O20: both skips test the same key of the levels they sample, one for down and one for up. -/
theorem keySkipsSampleOnceAndSkip : Obligations.KeySkipsSampleOnceAndSkip := by
  intro x s
  have hsame (taken : Bool) : SameBut [.keyInput] s (s.keysSampled.skipIf taken) :=
    (s.sameBut_keysSampled _).leavePc _ _
  refine ⟨hasWord_of_encode_toNat rfl (encodeXKK_toNat_fixed ..), hasWord_of_encode_toNat rfl (encodeXKK_toNat_fixed ..),
    fun _ _ => State.keyLevels_of_cons, ⟨_, rfl, hsame _, rfl, rfl, ?_⟩, ⟨_, rfl, hsame _, rfl, rfl, ?_⟩⟩
  · rw [State.skipIf_pc, State.keyDown_lowNibble, State.keysSampled_pc]
  · rw [State.skipIf_not_pc, State.keyDown_lowNibble, State.keysSampled_pc]

end Sys2Proof.Machine
end

section
/-! PROOFS. Load, arithmetic, logic, shift and random (spec/43_load_alu.md rules R130 to R143): each instruction is one
register write, or the flag's and then the result's, followed by the advance of the pc. -/

namespace Sys2Proof.Machine

/-! ## Register writes and what they leave unchanged -/

/-- A write of registers, whichever and however many, changes no other part. -/
theorem SameBut.withRegs {changed : List Part} {s t : State} {p : Params} (h : SameBut changed s t p)
    (v : Vector Byte 16) : SameBut (.regs :: changed) s { t with v := v } p := by
  intro part hpart
  obtain ⟨hregs, hrest⟩ := not_or.mp (mt List.mem_cons.mpr hpart)
  have hsame := h part hrest
  cases part with
  | regs => exact absurd rfl hregs
  | _ => exact hsame

theorem State.sameBut_randomDrawn (s : State) (p : Params) : SameBut [.randomInput] s s.randomDrawn p := by
  intro part hpart
  have hsame := Part.same_rfl part s p
  cases part with
  | randomInput => simp at hpart
  | _ => exact hsame

theorem State.regsSameBut_setReg (s : State) (x : Reg) (b : Byte) : RegsSameBut [x] s (s.setReg x b) := fun k hk =>
  (s.reg_setReg x k b).trans (if_neg (Ne.symm (List.ne_of_not_mem_cons hk)))

/-- R130 to R135: the frame of an instruction that writes one register and advances the pc. -/
theorem State.advance_setReg_frame (s : State) (x : Reg) (b : Byte) (q : Bool) (p : Params) :
    RegsSameBut [x] s ((s.setReg x b).advance q) ∧ SameBut [.regs] s ((s.setReg x b).advance q) p ∧
      ((s.setReg x b).advance q).pc = s.pc + 2 :=
  ⟨s.regsSameBut_setReg x b, ((SameBut.refl s p).withRegs _).leavePc _ _, State.advance_pc _ q⟩

@[simp] theorem State.reg_setFlagThenReg_self (s : State) (f : Bool) (x : Reg) (b : Byte) :
    (s.setFlagThenReg f x b).reg x = b :=
  (s.setFlag f).reg_setReg_self x b

/-- R143: the flag stands in VF when the result is written elsewhere. -/
theorem State.reg_vFlag_setFlagThenReg (s : State) (f : Bool) {x : Reg} (b : Byte) (hx : x ≠ 15) :
    (s.setFlagThenReg f x b).reg 15 = flagByte f :=
  (s.reg_setFlagThenReg f x 15 b).trans (if_neg hx)

/-- R136 to R140: the frame of an instruction that writes the flag, then its result, and advances the pc. -/
theorem State.advance_setFlagThenReg_frame (s : State) (f : Bool) (x : Reg) (b : Byte) (q : Bool) (p : Params) :
    RegsSameBut [x, 15] s ((s.setFlagThenReg f x b).advance q) ∧
      SameBut [.regs] s ((s.setFlagThenReg f x b).advance q) p ∧
      ((s.setFlagThenReg f x b).advance q).pc = s.pc + 2 := by
  refine ⟨fun k hk => ?_, ((SameBut.refl s p).withRegs _).leavePc _ _, State.advance_pc _ q⟩
  obtain ⟨hkx, hk15⟩ : k ≠ x ∧ k ≠ 15 := by simpa using hk
  rw [State.advance_reg, State.reg_setFlagThenReg, if_neg (Ne.symm hkx), if_neg hk15]

/-! ## Loads and the immediate add -/

/-- R72: the word of a format-`XY` instruction, its fixed digits first. -/
theorem encodeXYN_toNat_fixed (op : BitVec 4) (x y : Reg) (n : BitVec 4) :
    (encodeXYN op x y n).toNat = op.toNat * 4096 + n.toNat + x.val * 256 + y.val * 16 := by
  rw [encodeXYN_toNat]; omega

/-- Settles O21: each writes Vx once; the sum of two bytes wraps modulo 256. -/
theorem loadsAndImmediateAddWriteVx : Obligations.LoadsAndImmediateAddWriteVx := by
  intro x y kk s
  have hself (b : Byte) : ((s.setReg x b).advance).reg x = b := s.reg_setReg_self x b
  have hframe (b : Byte) := s.advance_setReg_frame x b hardware.pcQuirk hardware
  exact ⟨⟨hasWord_of_encode_toNat rfl (encodeXKK_toNat ..), hasWord_of_encode_toNat rfl (encodeXKK_toNat ..),
      hasWord_of_encode_toNat rfl (encodeXYN_toNat ..)⟩,
    ⟨_, rfl, hself _, hframe _⟩,
    ⟨_, rfl, (congrArg BitVec.toNat (hself _)).trans (BitVec.toNat_add ..), hframe _⟩,
    ⟨_, rfl, hself _, hframe _⟩⟩

/-! ## Logic -/

/-- Settles O22: each writes Vx once, with the bitwise operation of the two old values. -/
theorem logicActsBitwiseWithoutFlag : Obligations.LogicActsBitwiseWithoutFlag := by
  intro x y s
  have hbit (b : Byte) (k : Nat) : (((s.setReg x b).advance).reg x).getLsbD k = b.getLsbD k :=
    congrArg (·.getLsbD k) (s.reg_setReg_self x b)
  have hframe (b : Byte) := s.advance_setReg_frame x b hardware.pcQuirk hardware
  exact ⟨⟨hasWord_of_encode_toNat rfl (encodeXYN_toNat_fixed ..),
      hasWord_of_encode_toNat rfl (encodeXYN_toNat_fixed ..),
      hasWord_of_encode_toNat rfl (encodeXYN_toNat_fixed ..)⟩,
    ⟨_, rfl, fun k => (hbit _ k).trans BitVec.getLsbD_or, hframe _⟩,
    ⟨_, rfl, fun k => (hbit _ k).trans BitVec.getLsbD_and, hframe _⟩,
    ⟨_, rfl, fun k => (hbit _ k).trans BitVec.getLsbD_xor, hframe _⟩⟩

/-! ## Add and subtract with the flag -/

theorem flagByte_carryOut (a b : Byte) : flagByte (carryOut a b) = if a.toNat + b.toNat > 255 then 1 else 0 := by
  simp only [flagByte, carryOut, decide_eq_true_eq, gt_iff_lt]

theorem flagByte_strictlyGreater (a b : Byte) :
    flagByte (strictlyGreater a b) = if a.toNat > b.toNat then 1 else 0 := by
  simp only [flagByte, strictlyGreater, decide_eq_true_eq, gt_iff_lt]

/-- R137, R142: a difference of bytes, modulo 256. -/
theorem toNat_sub_byte (a b : Byte) : (a - b).toNat = (a.toNat + 256 - b.toNat) % 256 := by
  rw [BitVec.toNat_sub', ← Nat.add_sub_assoc b.isLt.le]

/-- Settles O23: VF takes the carry or the strict comparison of the old operands, then Vx the sum or difference. -/
theorem addAndSubtractSetFlagThenResult : Obligations.AddAndSubtractSetFlagThenResult := by
  intro x y s
  have hself (f : Bool) (b : Byte) : (((s.setFlagThenReg f x b).advance).reg x).toNat = b.toNat :=
    congrArg BitVec.toNat (s.reg_setFlagThenReg_self f x b)
  have hframe (f : Bool) (b : Byte) := s.advance_setFlagThenReg_frame f x b hardware.pcQuirk hardware
  exact ⟨⟨hasWord_of_encode_toNat rfl (encodeXYN_toNat_fixed ..),
      hasWord_of_encode_toNat rfl (encodeXYN_toNat_fixed ..),
      hasWord_of_encode_toNat rfl (encodeXYN_toNat_fixed ..)⟩,
    ⟨_, rfl, (hself _ _).trans (BitVec.toNat_add ..),
      fun hx => (s.reg_vFlag_setFlagThenReg _ _ hx).trans (flagByte_carryOut ..), hframe _ _⟩,
    ⟨_, rfl, (hself _ _).trans (toNat_sub_byte ..),
      fun hx => (s.reg_vFlag_setFlagThenReg _ _ hx).trans (flagByte_strictlyGreater ..), hframe _ _⟩,
    ⟨_, rfl, (hself _ _).trans (toNat_sub_byte ..),
      fun hx => (s.reg_vFlag_setFlagThenReg _ _ hx).trans (flagByte_strictlyGreater ..), hframe _ _⟩⟩

/-! ## Shifts -/

theorem flagByte_toNat (f : Bool) : (flagByte f).toNat = f.toNat := by
  cases f <;> rfl

/-- R138: the bit a right shift moves out is the remainder of the halving. -/
theorem flagByte_shiftedOutLow_toNat (a : Byte) : (flagByte (shiftedOutLow a)).toNat = a.toNat % 2 := by
  rw [flagByte_toNat, shiftedOutLow, ← BitVec.testBit_toNat, Nat.toNat_testBit, Nat.pow_zero, Nat.div_one]

/-- R140: the bit a left shift moves out is the byte's high half. -/
theorem flagByte_shiftedOutHigh_toNat (a : Byte) : (flagByte (shiftedOutHigh a)).toNat = a.toNat / 128 := by
  rw [flagByte_toNat, shiftedOutHigh, ← BitVec.testBit_toNat, Nat.toNat_testBit]
  have := a.isLt
  omega

/-- Settles O24: VF takes the bit shifted out of Vx, then Vx its half or its double; no operand is Vy. -/
theorem shiftsMoveVxByOne : Obligations.ShiftsMoveVxByOne := by
  intro x y s
  have hself (f : Bool) (b : Byte) : (((s.setFlagThenReg f x b).advance).reg x).toNat = b.toNat :=
    congrArg BitVec.toNat (s.reg_setFlagThenReg_self f x b)
  have hflag (f : Bool) (b : Byte) (hx : x ≠ 15) :
      (((s.setFlagThenReg f x b).advance).reg 15).toNat = (flagByte f).toNat :=
    congrArg BitVec.toNat (s.reg_vFlag_setFlagThenReg f b hx)
  have hframe (f : Bool) (b : Byte) := s.advance_setFlagThenReg_frame f x b hardware.pcQuirk hardware
  exact ⟨⟨hasWord_of_encode_toNat rfl (encodeXYN_toNat_fixed ..),
      hasWord_of_encode_toNat rfl (encodeXYN_toNat_fixed ..)⟩,
    ⟨_, rfl, (hself _ _).trans (BitVec.toNat_ushiftRight ..),
      fun hx => (hflag _ _ hx).trans (flagByte_shiftedOutLow_toNat _), hframe _ _⟩,
    ⟨_, rfl, (hself _ _).trans (BitVec.toNat_shiftLeft.trans (by rw [Nat.shiftLeft_eq])),
      fun hx => (hflag _ _ hx).trans (flagByte_shiftedOutHigh_toNat _), hframe _ _⟩⟩

/-! ## The random load -/

/-- R30: the byte drawn is the next on the tape. -/
theorem State.randomByte_of_cons {s : State} {r : Byte} {rest : List Byte} (h : s.rndTape = r :: rest) :
    s.randomByte = r := by
  rw [State.randomByte, h, List.headD_cons]

/-- Settles O25: the draw changes the random input alone, and Vx is then written with the masked byte. -/
theorem randomLoadMasksTheInput : Obligations.RandomLoadMasksTheInput := by
  intro x kk s
  have hself : ((s.randomDrawn.setReg x (s.randomByte &&& kk)).advance).reg x = s.randomByte &&& kk :=
    s.randomDrawn.reg_setReg_self x _
  refine ⟨hasWord_of_encode_toNat rfl (encodeXKK_toNat ..), fun _ _ => State.randomByte_of_cons,
    _, rfl, fun b => (congrArg (·.getLsbD b) hself).trans BitVec.getLsbD_and, ?_, rfl, rfl,
    s.randomDrawn.regsSameBut_setReg x _, ((s.sameBut_randomDrawn _).withRegs _).leavePc _ _, State.advance_pc _ _⟩
  calc _ = s.randomByte &&& kk &&& ~~~kk := congrArg (· &&& ~~~kk) hself
    _ = s.randomByte &&& 0 := by rw [BitVec.and_assoc, BitVec.and_not_self]
    _ = 0 := BitVec.and_zero

end Sys2Proof.Machine
end

section
/-! PROOFS. Index and memory (spec/44_index_memory.md): the loads of I and the add to it (R150 to R152), the BCD and block
stores (R153, R154), and the block load, alone and after a block store (R155). -/

namespace Sys2Proof.Machine

/-! ## What an index load and a store leave unchanged -/

/-- R150 to R152: the frame of an instruction that writes I and advances the pc. -/
theorem State.advance_withIndex_frame (s : State) (a : Addr) (q : Bool) (p : Params) :
    SameBut [.index] s ({ s with i := a }.advance q) p ∧ ({ s with i := a }.advance q).pc = s.pc + 2 := by
  have hindex : SameBut [.index] s { s with i := a } p := by
    intro part hpart
    have hsame := Part.same_rfl part s p
    cases part with
    | index => simp at hpart
    | _ => exact hsame
  exact ⟨hindex.leavePc _ _, State.advance_pc _ q⟩

/-- R153, R154: the frame of an instruction that stores bytes and advances the pc. -/
theorem State.advance_writeBytes_frame (s : State) (a : Nat) (bs : List Byte) (q : Bool) (p : Params) :
    SameBut [.memory] s ((s.writeBytes a bs p).advance q) p ∧ ((s.writeBytes a bs p).advance q).pc = s.pc + 2 := by
  have hmemory : SameBut [.memory] s (s.writeBytes a bs p) p := by
    intro part hpart
    have hsame := Part.same_rfl part s p
    cases part with
    | memory => simp at hpart
    | _ => exact hsame
  exact ⟨hmemory.leavePc _ _, State.advance_pc _ q⟩

/-- R52, R156: byte `k` of a store from `i0` on stands at `i0 + k`. -/
theorem State.readByte_ea_writeBytes (s : State) {bs : List Byte} {k : Nat} {b : Byte} {p : Params} (h : bs[k]? = some b) :
    (s.writeBytes (s.ea 0) bs p).readByte (s.ea k) p = b := by
  have hoffset : s.ea k - s.ea 0 = k := Nat.add_sub_cancel_left _ _
  have hle : s.ea 0 ≤ s.ea k := Nat.le_add_right _ _
  rw [State.readByte_writeBytes, if_pos hle, hoffset, h, Option.getD_some]

/-- R52, R156: a store from `i0` to `i0 + n` changes no byte outside them. -/
theorem State.readByte_writeBytes_outside (s : State) {bs : List Byte} {n c : Nat} {p : Params}
    (hlen : bs.length = n + 1) (hc : c < s.ea 0 ∨ s.ea n < c) : (s.writeBytes (s.ea 0) bs p).readByte c p = s.readByte c p := by
  rw [State.readByte_writeBytes]
  obtain hbelow | habove := hc
  · rw [if_neg (Nat.not_le.mpr hbelow)]
  · have hpast : bs.length ≤ c - s.ea 0 := by simp only [State.ea] at habove ⊢; omega
    rw [List.getElem?_eq_none hpast, Option.getD_none, ite_self]

/-! ## The index register -/

/-- Settles O27: each loads I and advances; the glyph's address does not wrap, and its digit is the low four bits of Vx. -/
theorem indexLoadsSetI : Obligations.IndexLoadsSetI := by
  intro nnn x s
  have hglyph : (glyphAddress (lowNibble (s.reg x))).toNat = Config.fontBase + 5 * ((s.reg x).toNat % 16) := by
    rw [glyphAddress_toNat, lowNibble_val]
  exact ⟨hasWord_of_encode_toNat rfl (encodeNNN_toNat ..), hasWord_of_encode_toNat rfl (encodeXKK_toNat_fixed ..),
    ⟨_, rfl, rfl, s.advance_withIndex_frame _ _ _⟩, ⟨_, rfl, hglyph, s.advance_withIndex_frame _ _ _⟩⟩

/-- Settles O28: the check is on the sum itself, and a sum inside memory fits I. -/
theorem indexAddStaysAddressable : Obligations.IndexAddStaysAddressable := fun _ s =>
  ⟨hasWord_of_encode_toNat rfl (encodeXKK_toNat_fixed ..),
    fun hsum => ⟨_, State.checked_next.mpr ⟨hsum, rfl⟩, Nat.mod_eq_of_lt hsum, s.advance_withIndex_frame _ _ _⟩,
    fun hsum => State.checked_fault.mpr ⟨hsum, rfl⟩⟩

/-! ## The stores -/

/-- R153: a number below 256, such as a decimal digit, is the value of the byte stored for it. -/
theorem State.readByte_ea_writeBytes_toNat (s : State) {bs : List Byte} {k d : Nat}
    (h : bs[k]? = some (BitVec.ofNat 8 d)) (hd : d < 256) :
    ((s.writeBytes (s.ea 0) bs).readByte (s.ea k)).toNat = d := by
  rw [s.readByte_ea_writeBytes h, BitVec.toNat_ofNat, Nat.mod_eq_of_lt hd]

/-- Settles O29: the three digits stand at the three addresses from I on, and the check is on the last of them. -/
theorem bcdStoreWritesThreeDigits : Obligations.BcdStoreWritesThreeDigits := by
  intro x s
  have hbyte := (s.reg x).isLt
  refine ⟨hasWord_of_encode_toNat rfl (encodeXKK_toNat_fixed ..),
    fun hlast => ⟨_, State.checked_next.mpr ⟨hlast, rfl⟩, ?_, ?_, ?_, fun _ => s.readByte_writeBytes_outside rfl,
      s.advance_writeBytes_frame _ _ _ _⟩,
    fun hlast => State.checked_fault.mpr ⟨hlast, rfl⟩⟩
  · exact s.readByte_ea_writeBytes_toNat rfl (by omega)
  · exact s.readByte_ea_writeBytes_toNat rfl (by omega)
  · exact s.readByte_ea_writeBytes_toNat rfl (by omega)

/-- Settles O30: the block is `x + 1` bytes long, byte `k` of it Vk, and the check is on the address of its last. -/
theorem blockStoreWritesTheRegisters : Obligations.BlockStoreWritesTheRegisters := fun x s =>
  ⟨hasWord_of_encode_toNat rfl (encodeXKK_toNat_fixed ..),
    fun hlast => ⟨_, State.checked_next.mpr ⟨hlast, rfl⟩, fun k hk => s.readByte_ea_writeBytes (s.regBlock_get x k hk),
      fun _ => s.readByte_writeBytes_outside (s.regBlock_length x), s.advance_writeBytes_frame _ _ _ _⟩,
    fun hlast => State.checked_fault.mpr ⟨hlast, rfl⟩⟩

/-! ## The block load -/

/-- Settles O31: the load changes registers alone, each up to Vx to the byte at its own address. -/
theorem blockLoadReadsTheRegisters : Obligations.BlockLoadReadsTheRegisters := fun x s =>
  ⟨hasWord_of_encode_toNat rfl (encodeXKK_toNat_fixed ..),
    fun hlast => ⟨_, State.checked_next.mpr ⟨hlast, rfl⟩, fun k => s.reg_loadBlock x k _,
      ((SameBut.refl s _).withRegs _).leavePc _ _, State.advance_pc _ _⟩,
    fun hlast => State.checked_fault.mpr ⟨hlast, rfl⟩⟩

/-- Settles O32: the store's check is the load's, because I is the same, and the load reads the bytes the store left. -/
theorem storeThenLoadRestoresRegisters : Obligations.StoreThenLoadRestoresRegisters := by
  intro x s t t' hstore hi hkept
  have hea (k : Nat) : t'.ea k = s.ea k := congrArg (·.toNat + k) hi
  obtain ⟨hlast, -⟩ := State.checked_next.mp hstore
  obtain ⟨-, hload, -⟩ := blockLoadReadsTheRegisters x t'
  obtain ⟨u, hu, hreg, -⟩ := hload ((hea x.val).trans_lt hlast)
  refine ⟨u, hu, fun k hk => ?_, fun k hk => ?_⟩
  · rw [hreg, if_pos hk, hea, hkept k hk, readByte_of_exec_storeRegs hstore hk]
  · rw [hreg, if_neg (not_le.mpr hk)]

end Sys2Proof.Machine
end

section
/-! PROOFS. The timers (spec/45_timers.md): the three timer instructions (R165 to R167) and the host's `timerTick` (R168). -/

namespace Sys2Proof.Machine

/-! ## What a write of one timer, and of the schedule, leaves unchanged -/

/-- One more part may change in a state that agrees on all others wherever the state before it did. -/
theorem SameBut.cons {changed : List Part} {s t u : State} {p : Params} {q : Part} (h : SameBut changed s t p)
    (hu : ∀ part, part ≠ q → part.same s t p → part.same s u p) : SameBut (q :: changed) s u p := by
  intro part hpart
  obtain ⟨hne, hrest⟩ := not_or.mp (mt List.mem_cons.mpr hpart)
  exact hu part hne (h part hrest)

theorem SameBut.withDelayTimer {changed : List Part} {s t : State} {p : Params} (h : SameBut changed s t p) (b : Byte) :
    SameBut (.delayTimer :: changed) s { t with dt := b } p :=
  h.cons fun part hne hsame => by
    cases part with
    | delayTimer => exact absurd rfl hne
    | _ => exact hsame

theorem SameBut.withSoundTimer {changed : List Part} {s t : State} {p : Params} (h : SameBut changed s t p) (b : Byte) :
    SameBut (.soundTimer :: changed) s { t with st := b } p :=
  h.cons fun part hne hsame => by
    cases part with
    | soundTimer => exact absurd rfl hne
    | _ => exact hsame

theorem SameBut.withHostOps {changed : List Part} {s t : State} {p : Params} (h : SameBut changed s t p)
    (ops : List HostOp) : SameBut (.hostSchedule :: changed) s { t with hostOps := ops } p :=
  h.cons fun part hne hsame => by
    cases part with
    | hostSchedule => exact absurd rfl hne
    | _ => exact hsame

/-! ## The timer instructions -/

/-- Settles O34: each copies one byte, to Vx, to DT or to ST, and advances the pc. -/
theorem timerInstructionsMoveTheTimers : Obligations.TimerInstructionsMoveTheTimers := by
  intro x s
  have hunchanged := SameBut.refl s hardware
  exact ⟨⟨hasWord_of_encode_toNat rfl (encodeXKK_toNat_fixed ..), hasWord_of_encode_toNat rfl (encodeXKK_toNat_fixed ..),
      hasWord_of_encode_toNat rfl (encodeXKK_toNat_fixed ..)⟩,
    ⟨_, rfl, s.reg_setReg_self x _, s.advance_setReg_frame x _ _ _⟩,
    ⟨_, rfl, rfl, (hunchanged.withDelayTimer _).leavePc _ _, State.advance_pc _ _⟩,
    ⟨_, rfl, rfl, (hunchanged.withSoundTimer _).leavePc _ _, State.advance_pc _ _⟩⟩

/-! ## The host's `timerTick` -/

/-- R168: the model's case for a timer at 0 is natural subtraction's. -/
theorem countDown_toNat (b : Byte) : (countDown b).toNat = b.toNat - 1 := by
  unfold countDown
  split
  · next h => rw [h]; rfl
  · next h => bv_omega

/-- Settles O35: the step takes the operation off the schedule and counts both timers down; it runs no instruction. -/
theorem timerTickCountsBothTimersDown : Obligations.TimerTickCountsBothTimersDown := by
  intro s rest hops
  have hstep : step s = .next (State.timerTick { s with hostOps := rest }) := step_of_hostOps_cons hops
  have hframe := (((SameBut.refl s hardware).withHostOps rest).withSoundTimer (countDown s.st)).withDelayTimer
    (countDown s.dt)
  exact ⟨_, hstep, countDown_toNat s.dt, countDown_toNat s.st, rfl, rfl, hframe⟩

end Sys2Proof.Machine
end

section
/-! PROOFS. The display (spec/46_display.md): the clear (R175), the draw, once, twice and under any configuration (R176,
R177), the snapshot (R178) and the scaler's input (R185). -/

namespace Sys2Proof.Machine

/-! ## A write of the display, and the clear -/

theorem SameBut.withDisplay {changed : List Part} {s t : State} {p : Params} (h : SameBut changed s t p) (d : Display) :
    SameBut (.display :: changed) s { t with display := d } p :=
  h.cons fun part hne hsame => by
    cases part with
    | display => exact absurd rfl hne
    | _ => exact hsame

/-- Settles O37: the next state's display is the blank one, and the pc advances. -/
theorem clearTurnsEveryCellOff : Obligations.ClearTurnsEveryCellOff :=
  ⟨hasWord_of_encode_toNat rfl rfl, fun s => ⟨_, rfl, fun x y => Display.cell_blank x y,
    ((SameBut.refl s _).withDisplay _).leavePc _ _, State.advance_pc _ _⟩⟩

/-! ## Bits XORed into a display -/

/-- From `acc` to `acc'` the bits are XORed into the display, each cell at most once, and a cell that goes from on to off
is noted as a collision (R176). -/
structure Xored (p : Params) (bits : Nat → Nat → Bool) (acc acc' : Display × Bool) : Prop where
  cells : ∀ cx cy, Display.cell acc'.1 cx cy p = (Display.cell acc.1 cx cy p ^^ bits cx cy)
  collision : acc'.2 = true ↔ acc.2 = true ∨ ∃ cx cy, Display.cell acc.1 cx cy p = true ∧ bits cx cy = true

theorem Xored.refl {p : Params} {bits : Nat → Nat → Bool} (hbits : ∀ cx cy, bits cx cy = false) (acc : Display × Bool) :
    Xored p bits acc acc where
  cells cx cy := by rw [hbits, Bool.xor_false]
  collision := by simp [hbits]

/-- Two parts of a sprite that share no cell make one: the second part finds its cells as they were before the first. -/
theorem Xored.trans {p : Params} {bits bits' both : Nat → Nat → Bool} {acc acc' acc'' : Display × Bool}
    (h : Xored p bits acc acc') (h' : Xored p bits' acc' acc'')
    (hboth : ∀ cx cy, both cx cy = (bits cx cy ^^ bits' cx cy))
    (hapart : ∀ cx cy, bits' cx cy = true → bits cx cy = false) : Xored p both acc acc'' where
  cells cx cy := by rw [h'.cells, h.cells, hboth, Bool.xor_assoc]
  collision := by
    have hcell (cx cy : Nat) : (Display.cell acc.1 cx cy p = true ∧ both cx cy = true) ↔
        (Display.cell acc.1 cx cy p = true ∧ bits cx cy = true) ∨
          (Display.cell acc'.1 cx cy p = true ∧ bits' cx cy = true) := by
      rw [h.cells, hboth]
      have := hapart cx cy
      cases hb' : bits' cx cy <;> simp_all
    simp only [h'.collision, h.collision, hcell, exists_or, or_assoc]

/-- One plotted pixel, in a column and row of the display. -/
theorem xored_plotPixel {p : Params} (vx vy : Nat) (b : Byte) {row col : Nat} (acc : Display × Bool)
    (hr : row < p.lh) (hc : col < p.lw) :
    Xored p (fun cx cy => decide (spriteRow vy cy p = row) && decide (spriteColumn vx cx p = col) && b.getLsbD (7 - col))
      acc (plotPixel vx vy b row acc col p) where
  cells cx cy := cell_plotPixel vx vy b row col cx cy acc hr hc
  collision := by
    simp only [collision_plotPixel, Bool.or_eq_true, Bool.and_eq_true, decide_eq_true_eq]
    refine or_congr_right ⟨fun ⟨hon, hbit⟩ => ⟨vx + col, vy + row, hon, ⟨?_, ?_⟩, hbit⟩,
      fun ⟨cx, cy, hon, ⟨hrow, hcol⟩, hbit⟩ => ⟨?_, hbit⟩⟩
    · exact (spriteRow_eq_for vy _ row hr).mp rfl
    · exact (spriteColumn_eq_for vx _ col hc).mp rfl
    · rw [← Display.cell_mod_for, (spriteColumn_eq_for vx cx col hc).mpr hcol, (spriteRow_eq_for vy cy row hr).mpr hrow,
        Display.cell_mod_for, hon]

/-- The bit that the first `k` columns of a sprite's row, its byte `b`, put on a cell. -/
def rowBit (p : Params) (vx vy : Nat) (b : Byte) (row k cx cy : Nat) : Bool :=
  decide (spriteRow vy cy p = row) && decide (spriteColumn vx cx p < k) && b.getLsbD (7 - spriteColumn vx cx p)

/-- One more column of a row. -/
theorem rowBit_succ (p : Params) (vx vy : Nat) (b : Byte) (row k cx cy : Nat) :
    rowBit p vx vy b row (k + 1) cx cy = (rowBit p vx vy b row k cx cy ^^
      (decide (spriteRow vy cy p = row) && decide (spriteColumn vx cx p = k) && b.getLsbD (7 - k))) := by
  unfold rowBit
  by_cases hk : spriteColumn vx cx p = k
  · simp [hk]
  · have hlt : spriteColumn vx cx p < k + 1 ↔ spriteColumn vx cx p < k := by omega
    simp [hk, hlt]

/-- One row of a sprite, on a display with room for its eight columns. -/
theorem xored_drawRow {p : Params} (vx vy : Nat) (b : Byte) {row : Nat} (acc : Display × Bool)
    (hr : row < p.lh) (hw : 8 ≤ p.lw) : Xored p (rowBit p vx vy b row 8) acc (drawRow vx vy b row acc p) := by
  have hcolumns (k : Nat) (hk : k ≤ p.lw) : Xored p (rowBit p vx vy b row k) acc
      ((List.range k).foldl (fun acc col => plotPixel vx vy b row acc col p) acc) := by
    induction k with
    | zero => exact Xored.refl (by simp [rowBit]) acc
    | succ k ih =>
      rw [List.range_succ, List.foldl_append]
      refine (ih (by omega)).trans (xored_plotPixel vx vy b _ hr hk) (rowBit_succ p vx vy b row k) fun cx cy hpixel => ?_
      simp only [Bool.and_eq_true, decide_eq_true_eq] at hpixel
      simp [rowBit, hpixel.1.2]
  exact hcolumns 8 hw

/-- R176: a sprite, on a display with room for its eight columns and `n` rows. -/
theorem xored_drawSprite {p : Params} (m : Memory) (a vx vy n : Nat) (d : Display) (hw : 8 ≤ p.lw) (hn : n ≤ p.lh) :
    Xored p (fun cx cy => spriteBit m a vx vy n cx cy p) (d, false) (drawSprite m a vx vy n d p) := by
  induction n with
  | zero => exact Xored.refl (by simp [spriteBit]) _
  | succ n ih =>
    rw [drawSprite_succ]
    refine (ih (by omega)).trans (xored_drawRow vx vy _ _ hn hw) (spriteBit_succ m a vx vy n) fun cx cy hrow => ?_
    simp only [rowBit, Bool.and_eq_true, decide_eq_true_eq] at hrow
    simp [spriteBit, hrow.1.1]

/-- The bit of a sprite depends on its own bytes alone. -/
theorem spriteBit_congr {p : Params} {m m' : Memory} {a n : Nat} (vx vy cx cy : Nat)
    (hbytes : ∀ k, k < n → m'.read (a + k) p = m.read (a + k) p) :
    spriteBit m' a vx vy n cx cy p = spriteBit m a vx vy n cx cy p := by
  unfold spriteBit
  by_cases hrow : spriteRow vy cy p < n
  · rw [hbytes _ hrow]
  · simp [hrow]

/-! ## The state after a draw -/

/-- The display that `Dxyn` leaves, and its collision (R176). -/
def State.drawing (s : State) (x y : Reg) (n : Nat) (p : Params := hardware) : Display × Bool :=
  drawSprite s.mem (s.ea 0) (s.reg x).toNat (s.reg y).toNat n s.display p

/-- The state that `Dxyn` in range answers (R176). -/
def State.drawn (s : State) (x y : Reg) (n : Nat) (p : Params := hardware) : State :=
  ({ s with display := (s.drawing x y n p).1 }.setFlag (s.drawing x y n p).2).advance p.pcQuirk

/-- R176, D19: a draw answers a next state exactly when it has no rows or its last byte is in memory. -/
theorem execDrw_next {x y : Reg} {n : Nat} {s t : State} {p : Params} :
    execDrw x y n s p = .next t ↔ (n = 0 ∨ s.i.toNat + n - 1 < p.memSize) ∧ t = s.drawn x y n p := by
  obtain ⟨hn, hm, h⟩ | ⟨hin, h⟩ := execDrw_cases x y n s p
  · exact h ▸ iff_of_false nofun fun ⟨hin, _⟩ => by omega
  · rw [h, Host.Outcome.next.injEq, and_iff_right hin, eq_comm]; rfl

theorem State.drawn_frame (s : State) (x y : Reg) (n : Nat) (p : Params) :
    RegsSameBut [15] s (s.drawn x y n p) ∧ SameBut [.regs, .display] s (s.drawn x y n p) p ∧
      (s.drawn x y n p).pc = s.pc + 2 :=
  ⟨State.regsSameBut_setReg { s with display := _ } vFlag _, (((SameBut.refl s p).withDisplay _).withRegs _).leavePc _ _,
    State.advance_pc _ _⟩

theorem State.reg_vFlag_drawn (s : State) (x y : Reg) (n : Nat) (p : Params) :
    (s.drawn x y n p).reg 15 = flagByte (s.drawing x y n p).2 :=
  State.reg_setReg_self { s with display := _ } vFlag _

theorem flagByte_eq_one_iff (f : Bool) : flagByte f = 1 ↔ f = true := by cases f <;> decide

section
variable {p : Params} {n : Nat} (hw : 8 ≤ p.lw) (hn : n ≤ p.lh)
include hw hn

theorem State.cell_drawn (s : State) (x y : Reg) (cx cy : Nat) : Display.cell (s.drawn x y n p).display cx cy p =
    (Display.cell s.display cx cy p ^^ spriteBit s.mem (s.ea 0) (s.reg x).toNat (s.reg y).toNat n cx cy p) :=
  (xored_drawSprite s.mem (s.ea 0) (s.reg x).toNat (s.reg y).toNat n s.display hw hn).cells cx cy

theorem State.collision_drawing_iff (s : State) (x y : Reg) : (s.drawing x y n p).2 = true ↔
    ∃ cx cy, Display.cell s.display cx cy p = true ∧ Display.cell (s.drawn x y n p).display cx cy p = false := by
  have hbits := (xored_drawSprite s.mem (s.ea 0) (s.reg x).toNat (s.reg y).toNat n s.display hw hn).collision
  refine (hbits.trans (or_iff_right Bool.false_ne_true)).trans (exists_congr fun cx => exists_congr fun cy => ?_)
  refine and_congr_right fun hon => ?_
  rw [s.cell_drawn hw hn, hon, Bool.true_xor, Bool.not_eq_false']

/-- R177: a cell that a draw turns off has its coordinates on the grid; with no row on the grid there is none. -/
theorem State.exists_off_drawn_on_grid (s : State) (x y : Reg)
    (h : ∃ cx cy, Display.cell s.display cx cy p = true ∧ Display.cell (s.drawn x y n p).display cx cy p = false) :
    ∃ cx cy, cx < p.lw ∧ cy < p.lh ∧
      Display.cell s.display cx cy p = true ∧ Display.cell (s.drawn x y n p).display cx cy p = false := by
  obtain ⟨cx, cy, hon, hoff⟩ := h
  have hbit : spriteRow (s.reg y).toNat cy p < n := by
    rw [s.cell_drawn hw hn, hon] at hoff
    simp only [spriteBit, Bool.true_xor, Bool.not_eq_false', Bool.and_eq_true, decide_eq_true_eq] at hoff
    exact hoff.1.2
  refine ⟨cx % p.lw, cy % p.lh, Nat.mod_lt _ (by omega), Nat.mod_lt _ (by omega), ?_⟩
  rw [Display.cell_mod_for, Display.cell_mod_for]
  exact ⟨hon, hoff⟩

end

/-! ## One draw and two -/

/-- Settles O56: the sprite's bits are XORed in pixel by pixel, no cell twice, and a collision is on the grid. -/
theorem drawFollowsTheConfiguration : Obligations.DrawFollowsTheConfiguration := by
  intro p x y n s hw hn hin
  refine ⟨s.drawn x y n p, execDrw_next.mpr ⟨hin, rfl⟩, fun cx cy _ _ => s.cell_drawn hw hn x y cx cy, ?_, ?_,
    s.drawn_frame x y n p⟩
  · rintro ⟨cx, cy, -, -, hon, hoff⟩
    rw [s.reg_vFlag_drawn, (s.collision_drawing_iff hw hn x y).mpr ⟨cx, cy, hon, hoff⟩]; rfl
  · intro hnone
    have hcollision := mt (s.exists_off_drawn_on_grid hw hn x y ∘ (s.collision_drawing_iff hw hn x y).mp) hnone
    rw [s.reg_vFlag_drawn, eq_false_of_ne_true hcollision]; rfl

/-- R72: the word of `Dxyn` for a row count its field holds. -/
theorem encode_drw_toNat (x y : Reg) {n : Nat} (hn : n ≤ 15) :
    (encode (.drw x y n)).toNat = 0xD000 + x.val * 256 + y.val * 16 + n := by
  have hword := encodeXYN_toNat 0xD x y (BitVec.ofNat 4 n)
  rwa [BitVec.toNat_ofNat, Nat.mod_eq_of_lt (Nat.lt_succ_of_le hn)] at hword

/-- Settles O38: in range it is the draw under this hardware's configuration, and out of range the draw's one fault. -/
theorem drawXorsTheWrappedSprite : Obligations.DrawXorsTheWrappedSprite := fun x y n s hn =>
  ⟨hasWord_of_encode_toNat (decide_eq_true (Nat.lt_succ_of_le hn)) (encode_drw_toNat x y hn),
    drawFollowsTheConfiguration hardware x y n s (by decide) (hn.trans (by decide)),
    fun ⟨hrows, hlast⟩ => execDrw_fault.mpr ⟨hrows, hlast, rfl⟩⟩

/-- Settles O39: the second draw XORs the same bits, so it turns off just what the first turned on. -/
theorem drawingTwiceRestoresTheDisplay : Obligations.DrawingTwiceRestoresTheDisplay := by
  intro x y n s t t' hn h hdisplay hi hx hy hbytes
  have hw : 8 ≤ hardware.lw := by decide
  have hh : n ≤ hardware.lh := hn.trans (by decide)
  obtain ⟨hin, rfl⟩ := execDrw_next.mp h
  have hbits (cx cy : Nat) : spriteBit t'.mem (t'.ea 0) (t'.reg x).toNat (t'.reg y).toNat n cx cy =
      spriteBit s.mem (s.ea 0) (s.reg x).toNat (s.reg y).toNat n cx cy := by
    rw [hx, hy, State.ea, hi]
    exact spriteBit_congr _ _ cx cy hbytes
  have hback (cx cy : Nat) : Display.cell (t'.drawn x y n).display cx cy = Display.cell s.display cx cy := by
    rw [t'.cell_drawn hw hh, hdisplay, s.cell_drawn hw hh, hbits, Bool.xor_assoc, Bool.xor_self, Bool.xor_false]
  refine ⟨t'.drawn x y n, execDrw_next.mpr ⟨by rwa [hi], rfl⟩, hback, ?_⟩
  rw [t'.reg_vFlag_drawn, flagByte_eq_one_iff, t'.collision_drawing_iff hw hh]
  simp only [hback, hdisplay, and_comm]

/-! ## The snapshot and the scaler's input -/

theorem length_flatMap_range {α : Type} {f : Nat → List α} {w : Nat} (h : Nat) (hlen : ∀ y, (f y).length = w) :
    ((List.range h).flatMap f).length = h * w := by
  simp [List.length_flatMap, hlen]

/-- Rows of one length, one after the other: element `x` of row `y` stands at `y * w + x`. -/
theorem getElem?_flatMap_range {α : Type} {f : Nat → List α} {w h x y : Nat} (hlen : ∀ y, (f y).length = w)
    (hx : x < w) (hy : y < h) : ((List.range h).flatMap f)[y * w + x]? = (f y)[x]? := by
  induction h with
  | zero => exact absurd hy (Nat.not_lt_zero y)
  | succ h ih =>
    rw [List.range_succ, List.flatMap_append, List.flatMap_singleton]
    obtain hlt | rfl := Nat.lt_succ_iff_lt_or_eq.mp hy
    · have hbefore : y * w + x < h * w := by
        calc y * w + x < (y + 1) * w := by rw [Nat.succ_mul]; omega
          _ ≤ h * w := Nat.mul_le_mul_right w hlt
      rw [List.getElem?_append_left (by rwa [length_flatMap_range h hlen]), ih hlt]
    · rw [← length_flatMap_range y hlen, List.getElem?_append_right (Nat.le_add_right _ _), Nat.add_sub_cancel_left]

/-- R178: byte `y * LW + x` of the snapshot. -/
theorem State.displaySnapshot_getElem? (s : State) {p : Params} {x y : Nat} (hx : x < p.lw) (hy : y < p.lh) :
    (s.displaySnapshot p)[y * p.lw + x]? = some (if Display.cell s.display x y p then 1 else 0) := by
  unfold State.displaySnapshot
  rw [getElem?_flatMap_range (by simp) hx hy]
  simp [hx]

/-- R185: a cell of the scaler's input is on when the display's is. -/
theorem State.logicalBuffer_on (s : State) {p : Params} {x y : Nat} (hx : x < p.lw) (hy : y < p.lh) :
    (s.logicalBuffer p).on x y = Display.cell s.display x y p := by
  unfold LogicalBuffer.on State.logicalBuffer
  rw [List.getD_eq_getElem?_getD, s.displaySnapshot_getElem? hx hy]
  cases Display.cell s.display x y p <;> rfl

/-- Settles O57: the snapshot is `LH` rows of `LW` bytes, and the scaler's input is the snapshot at the same dimensions. -/
theorem snapshotFollowsTheConfiguration : Obligations.SnapshotFollowsTheConfiguration := fun p s =>
  ⟨(length_flatMap_range p.lh (by simp)).trans (Nat.mul_comm _ _), rfl, rfl,
    fun _ _ hx hy => ⟨s.displaySnapshot_getElem? hx hy, s.logicalBuffer_on hx hy⟩⟩

/-- Settles O40: the snapshot at this hardware's dimensions, 64 by 32. -/
theorem snapshotIsRowMajor : Obligations.SnapshotIsRowMajor := fun s =>
  ⟨(snapshotFollowsTheConfiguration hardware s).1, fun _ _ hx hy => s.displaySnapshot_getElem? (p := hardware) hx hy⟩

/-- Settles O43: the scaler's input at this hardware's dimensions, 64 by 32. -/
theorem scalerReadsTheDisplay : Obligations.ScalerReadsTheDisplay := fun s _ _ hx hy =>
  ⟨s.logicalBuffer_on (p := hardware) hx hy, rfl, rfl⟩

end Sys2Proof.Machine
end

section
/-! PROOFS. The Output Scaler (spec/47_scaler.md): the sizes it rejects (R186), and the blocks of equal pixels it fills
(R187, R188). -/

namespace Sys2Proof.Machine

/-! ## What a scaler call answers -/

/-- R186: a size that is a positive multiple of a dimension is one that passes the scaler's test. -/
theorem exists_factor_iff {size dim : Nat} (hdim : 1 ≤ dim) :
    (∃ f, 1 ≤ f ∧ size = f * dim) ↔ ¬ (size = 0 ∨ size % dim ≠ 0) := by
  constructor
  · rintro ⟨f, hf, rfl⟩
    have hpos : 0 < f * dim := Nat.mul_pos hf hdim
    have hrem : f * dim % dim = 0 := Nat.mul_mod_left f dim
    omega
  · intro hpass
    have hdvd : dim ∣ size := Nat.dvd_of_mod_eq_zero (by omega)
    exact ⟨size / dim, Nat.div_pos (Nat.le_of_dvd (by omega) hdvd) hdim, (Nat.div_mul_cancel hdvd).symm⟩

section
variable {l : LogicalBuffer} {stride : Nat} (hw : 1 ≤ l.width) (hh : 1 ≤ l.height) (hstride : 1 ≤ stride)
include hw hh hstride

/-- R186: sizes that are positive multiples are scaled, by the factors they are multiples with. -/
theorem scale_of_factors {sx sy : Nat} (hsx : 1 ≤ sx) (hsy : 1 ≤ sy) :
    scale l (sx * l.width) (sy * l.height) stride =
      .pixels (pixelBytes l sx sy (sx * l.width) (sy * l.height) stride) := by
  have hwidth := (exists_factor_iff hw).mp ⟨sx, hsx, rfl⟩
  have hheight := (exists_factor_iff hh).mp ⟨sy, hsy, rfl⟩
  rw [scale, if_neg (Nat.one_le_iff_ne_zero.mp hstride), if_neg hwidth, if_neg hheight, Nat.mul_div_cancel sx hw,
    Nat.mul_div_cancel sy hh]

/-- R186: a size that is no positive multiple, in width or in height, is rejected. -/
theorem scale_of_no_factors {w h : Nat}
    (hnot : ¬ ((∃ sx, 1 ≤ sx ∧ w = sx * l.width) ∧ (∃ sy, 1 ≤ sy ∧ h = sy * l.height))) :
    scale l w h stride = .invalidScale := by
  rw [exists_factor_iff hw, exists_factor_iff hh, ← not_or, not_not] at hnot
  rw [scale, if_neg (Nat.one_le_iff_ne_zero.mp hstride), ← ite_or, if_pos hnot]

end

/-- Settles O41: positive multiples are answered with pixels, all other sizes with `InvalidScale`. -/
theorem scalerRejectsNonMultiples : Obligations.ScalerRejectsNonMultiples := by
  intro l w h stride hw hh hstride
  refine ⟨?_, scale_of_no_factors hw hh hstride⟩
  rintro hinvalid ⟨⟨sx, hsx, rfl⟩, sy, hsy, rfl⟩
  rw [scale_of_factors hw hh hstride hsx hsy] at hinvalid
  cases hinvalid

/-! ## The bytes of the pixel buffer -/

section
variable (l : LogicalBuffer) (sx sy outW outH stride : Nat)

/-- R187: one row of output pixels, each `stride` bytes. -/
theorem length_pixelRow (py : Nat) :
    ((List.range outW).flatMap fun px => List.replicate stride (pixelValue l sx sy px py)).length = outW * stride :=
  length_flatMap_range outW fun _ => List.length_replicate

/-- R187: the buffer's length. -/
theorem length_pixelBytes : (pixelBytes l sx sy outW outH stride).length = outW * outH * stride :=
  calc (pixelBytes l sx sy outW outH stride).length
    _ = outH * (outW * stride) := length_flatMap_range outH (length_pixelRow l sx sy outW stride)
    _ = outW * outH * stride := by ring

variable {outW outH stride}

/-- R187, D15: pixel `(px, py)` has the `stride` bytes from `(py * outW + px) * stride` on. -/
theorem getElem?_pixelBytes {px py b : Nat} (hpx : px < outW) (hpy : py < outH) (hb : b < stride) :
    (pixelBytes l sx sy outW outH stride)[(py * outW + px) * stride + b]? = some (pixelValue l sx sy px py) := by
  have hinRow : px * stride + b < outW * stride := by
    rw [Nat.mul_comm px]
    exact Nat.mul_add_lt_mul_of_lt_of_lt hpx hb
  have hindex : (py * outW + px) * stride + b = py * (outW * stride) + (px * stride + b) := by ring
  rw [hindex, pixelBytes, getElem?_flatMap_range (length_pixelRow l sx sy outW stride) hinRow hpy,
    getElem?_flatMap_range (fun _ => List.length_replicate) hb hpx, List.getElem?_replicate, if_pos hb]

end

/-- R188: a pixel in a cell's block lies within the output, and the division finds the cell. -/
theorem block_bounds {c f p dim : Nat} (hc : c < dim) (hlo : c * f ≤ p) (hhi : p < (c + 1) * f) :
    p < f * dim ∧ p / f = c :=
  ⟨calc p < (c + 1) * f := hhi
     _ ≤ dim * f := Nat.mul_le_mul_right f hc
     _ = f * dim := Nat.mul_comm dim f,
    Nat.div_eq_of_lt_le hlo hhi⟩

/-- Settles O42: the sizes are positive multiples, and each byte is that of its pixel, whose cell the division finds. -/
theorem scalerFillsBlocksOfPixels : Obligations.ScalerFillsBlocksOfPixels := by
  intro l sx sy stride hw hh hstride hsx hsy
  refine ⟨_, scale_of_factors hw hh hstride hsx hsy, length_pixelBytes .., ?_⟩
  intro cx cy px py b hcx hcy hpxlo hpxhi hpylo hpyhi hb
  obtain ⟨hpx, hcolumn⟩ := block_bounds hcx hpxlo hpxhi
  obtain ⟨hpy, hrow⟩ := block_bounds hcy hpylo hpyhi
  rw [getElem?_pixelBytes l sx sy hpx hpy hb, pixelValue, hcolumn, hrow]

end Sys2Proof.Machine
end

section
/-! PROOFS. Reset, the load, the end of a run and the time a delay takes (spec/70_reset_and_hazards.md): the values a reset
leaves (R36, R220) and that they meet the invariant (R25 to R27), `loadProgram` (R221, R203), the self-jump (R222), and how
many calls of `timerTick` bring DT to 0 (R228). -/

namespace Sys2Proof.Machine

/-! ## Reset -/

/-- R36: every V register is 0 after reset. -/
theorem State.resetFor_reg (p : Params) (x : Reg) : (State.resetFor p).reg x = 0 := by
  simp [State.reg, State.resetFor]

/-- R220: a reset between ticks leaves the state after reset but for what belongs to the host (log 27). -/
theorem State.sameBut_resetAgain (s : State) (p : Params) :
    SameBut [.hostSchedule, .keyInput, .randomInput] (State.resetFor p) (s.resetAgain p) p := by
  intro part hpart
  have hsame := Part.same_rfl part (State.resetFor p) p
  cases part with
  | hostSchedule | keyInput | randomInput => simp at hpart
  | _ => exact hsame

/-- Settles O44: memory after reset is this hardware's case of O54, and a reset on the schedule makes the same state again. -/
theorem resetLeavesTheListedValues : Obligations.ResetLeavesTheListedValues := by
  obtain ⟨-, hfont, hzero, -⟩ := resetAndFontFollowTheConfiguration hardware hardware_valid
  refine ⟨State.resetFor_reg hardware, rfl, rfl, rfl, rfl, State.resetFor_slot hardware, rfl,
    fun x y => Display.cell_blank x y, fun a ha => ?_, fun a ha => hzero a (.inr ha), fun s rest hops => ?_⟩
  · have hbyte : Config.font[a]? = some (State.reset.readByte (0 + a)) := hfont a ha
    rw [List.getD_eq_getElem?_getD, hbyte, Option.getD_some, Nat.zero_add]
  · exact ⟨_, step_of_hostOps_cons hops, rfl, State.sameBut_resetAgain _ hardware, rfl, ⟨rfl, rfl⟩, rfl, rfl⟩

/-- Settles O48: this hardware is one valid configuration, and each meets its invariant after reset (O58). -/
theorem resetMeetsTheInvariant : Obligations.ResetMeetsTheInvariant := inv_resetFor hardware_valid

/-! ## The load -/

/-- R32: this hardware's step is the step of its configuration. -/
theorem stepFor_hardware (s : State) : stepFor hardware s = step s := by
  obtain ⟨-, hmachine⟩ := hardwareIsTheMachineAtItsConfiguration
  obtain ⟨-, -, hstep⟩ := hmachine s
  exact hstep

/-- Settles O45: the load under this hardware's configuration (O55), whose `PROG_BASE` is 0x200. -/
theorem loadProgramCopiesAllOrNothing : Obligations.LoadProgramCopiesAllOrNothing := by
  intro s bytes rest hops
  rw [← stepFor_hardware]
  exact loadFollowsTheConfiguration hardware s bytes rest hops

/-! ## The end of a run -/

/-- A handler that leaves, `POST` added, the pc it found leaves the state it found. -/
theorem State.leavePc_eq_self {s : State} {w : Word} {q : Bool} (h : w + postAdd q = s.pc) : s.leavePc w q = s := by
  rw [State.leavePc, h]

/-- Settles O47: the tick runs the jump, which writes the pc alone, with the value it held. -/
theorem selfJumpIsAFixedPoint : Obligations.SelfJumpIsAFixedPoint := by
  rintro q s ⟨hfetchable, nnn, hword, hlands⟩
  have hdecode : decodeWord (s.fetchWord (hardwareWithQuirk q)) = .ok (.jp nnn) := by
    rwa [State.fetchWord_hardwareWithQuirk]
  calc tickUnder q s
    _ = execFor (hardwareWithQuirk q) (.jp nnn) s := tickWith_of_ok (of_decide_eq_true hfetchable) hdecode
    _ = .next (s.leavePc (pcOfAddr nnn) q) := rfl
    _ = .next s := by rw [State.leavePc_eq_self hlands]

/-! ## The time a delay takes -/

/-- R168: each call takes one from DT, and 0 stays 0. -/
theorem State.iterate_timerTick_dt_toNat (s : State) (n : Nat) : (State.timerTick^[n] s).dt.toNat = s.dt.toNat - n := by
  induction n with
  | zero => rfl
  | succ n ih => rw [Function.iterate_succ_apply', State.timerTick_dt, countDown_toNat, ih, Nat.sub_sub]

/-- Settles O36: DT after `n` calls is its first value less `n`, which is 0 when `n` has reached that value. -/
theorem delayTimerNeedsExactlyItsValue : Obligations.DelayTimerNeedsExactlyItsValue := by
  intro s n
  rw [← BitVec.toNat_inj, State.iterate_timerTick_dt_toNat]
  exact Nat.sub_eq_zero_iff_le

end Sys2Proof.Machine
end
